-- ==== Sys2Proof/Word.lean ====
section
/-!
DEFINITION. The word types of the Stajor S9 and their plainest bit operations (spec/00_scope.md R5, R7, R8).
-/
namespace Sys2Proof

/-- A byte, R5. -/
abbrev Byte := BitVec 8
/-- A 32-bit word: one lane of a register, or one instruction word (R5, R203). -/
abbrev Word := BitVec 32
/-- A doubleword, R5. -/
abbrev DWord := BitVec 64
/-- A 48-bit byte address (R7, R382). -/
abbrev Addr := BitVec 48
/-- The lanes of a fragment: bit t is lane t; mask word k is bits [32k+31:32k] (R34). -/
abbrev Mask := BitVec 1024

namespace Mask

/-- Lane `t` is in the mask. -/
def has (m : Mask) (t : Nat) : Bool := m.getLsbD t
/-- The lanes 0 to n − 1. -/
def first (n : Nat) : Mask := BitVec.ofNat 1024 (2 ^ n - 1)
/-- The mask of the lanes below `n` that satisfy `p`. -/
def ofPred (n : Nat) (p : Nat → Bool) : Mask :=
  (List.range n).foldl (fun m t => if p t then m ||| BitVec.ofNat 1024 (2 ^ t) else m) 0#1024
/-- The lanes of the mask among 0 to n − 1, ascending. -/
def lanes (m : Mask) (n : Nat) : List Nat := (List.range n).filter m.has
/-- The lowest-numbered lane of the mask, 0 when there is none. -/
def lowest (m : Mask) (n : Nat) : Nat := ((m.lanes n).head?).getD 0
/-- Mask word k (R34). -/
def word (m : Mask) (k : Nat) : Word := m.extractLsb' (32 * k) 32
/-- The summary word: bit k is set exactly when mask word k is non-zero (R34). -/
def summary (m : Mask) : Word :=
  BitVec.ofNat 32 ((List.range 32).foldl (fun n k => if m.word k = 0#32 then n else n + 2 ^ k) 0)

end Mask

/-- Bytes of a value, lowest address first (R7). -/
def leBytes : Nat → Nat → List Byte
  | 0, _ => []
  | n + 1, v => BitVec.ofNat 8 v :: leBytes n (v / 256)

/-- The value that bytes hold, lowest address first (R7). -/
def leValue : List Byte → Nat
  | [] => 0
  | b :: bs => b.toNat + 256 * leValue bs

/-- Bits [lo + len − 1 : lo] of a value held as a number. -/
def bitsOf (v lo len : Nat) : Nat := v / 2 ^ lo % 2 ^ len
/-- Bit `i` of a value held as a number. -/
def bitOf (v i : Nat) : Bool := v / 2 ^ i % 2 = 1

/-- floor(a / b) for a positive b, toward −∞ (the notation of spec/00_scope.md before R12). -/
def floorDiv (a : Int) (b : Nat) : Int := Int.fdiv a (Int.ofNat b)

end Sys2Proof
end

