-- ==== Sys2Proof/Names.lean ====
section
/-!
DEFINITION. The names by which instructions and events speak of agents, servers, memory units and registers.
-/
namespace Sys2Proof

/-- An agent that issues instruction words (R135): a fragment of team `tid` of a group, or (`tid` = 64) of the group's
control-core context. `ent` is the split-table entry, `part` the part of a serial split in it (R43; 0 without one). -/
structure AgentId where
  gid : Nat
  tid : Nat
  ent : Nat
  part : Nat
  deriving DecidableEq, Repr

/-- The team number that names a group's control-core context. -/
def coreTid : Nat := 64

/-- The server of a queue, SKIND of R158. -/
inductive ServerKind where
  | engine | launchUnit | peerPort
  deriving DecidableEq, Repr

/-- A queue as its server knows it: the kind and number of the server (cluster, die or port), its queue context, the
virtual device and the descriptor's virtual address (R158). -/
structure QueueId where
  kind : ServerKind
  unit : Nat
  ctx : Nat
  vd : Nat
  desc : Nat
  deriving DecidableEq, Repr

/-- A memory unit that can be retired (R406, R407). -/
inductive MemUnit where
  | bank (stack channel bank : Nat)
  | channel (stack channel : Nat)
  | stack (stack : Nat)
  | row (stack channel bank row : Nat)
  deriving DecidableEq, Repr

/-- Why an attestation attempt ended (R427, R428, R430): it passed and every link to a TRUSTED die was keyed, or it failed. -/
inductive AttestOutcome where
  | pass | fail
  deriving DecidableEq, Repr

/-- What the companion processor reaches (R441, R442, R393): the memory aperture of a virtual function, by GPA, companion memory, or
host memory. -/
inductive Reach where
  | aperture (vd : Nat)
  | tier2
  | host
  deriving DecidableEq, Repr

/-- An access of the companion processor: a read of n bytes, a write, or a compare-and-swap, which writes where the bytes are as it
expects (R160, R441, R443). -/
inductive HostAccess where
  | read (n : Nat)
  | write (data : List Byte)
  | swap (expected data : List Byte)
  deriving DecidableEq, Repr

/-- The registers that a host, hypervisor or Pilot write reaches and that have no row of their own, and the virtual-function page by offset (R11, R371, R386,
R387, R393, R407, R409, R410, R417, R423, R432, R433, R434, R439, R444, R445). `n` numbers a register of a numbered set. -/
inductive HReg where
  | vdsched (n : Nat) | vdsave (n : Nat) | vdctl | rtstage (n : Nat) | pubstage (n : Nat)
  | prq (n : Nat) | rpq (n : Nat) | rqcfg | prqw | prqr | rpqw | rpqr
  | vdrate | keyarg (n : Nat) | keydata (n : Nat)
  | svthr (n : Nat) | svscrub | svspare | svarg (n : Nat) | svcsel | svcnt | svcmd | itsel | itent (n : Nat)
  | wlogsel | wlogdat (n : Nat) | pwrlim | pwrnow | thrstat | startstat | diestat (n : Nat)
  | vdmstate | pairing (port : Nat) | page (offset : Nat)
  deriving DecidableEq, Repr

/-- What creates a virtual device (R372, R434): the scheduling registers, save area, class and pool membership. -/
structure VdParams where
  sched0 : Word
  sched1 : Word
  save0 : Word
  save1 : Word
  save2 : Word
  cls : BitVec 2
  /-- in the time-shared pool (R369, R372); the creation request says so, since no register does (log 58) -/
  pool : Bool
  deriving DecidableEq, Repr

end Sys2Proof
end

