-- ==== Sys2Proof/Config.lean ====
section
/-!
DEFINITION. What the manual leaves to an implementation, and the free values: constants with no body, so that nothing
can evaluate them and a claim holds whatever they are.
-/
namespace Sys2Proof.Config

/-- A free 32-bit value (log 3): PROMISE times (R182), bytes read under a replaced key (R424), the high word of a
32-bit last result read as a pair (log 24). Applied to State's counter `fresh`. -/
opaque freeWord : Nat → BitVec 32

/-- A correctly rounded result that the enclosure of the model does not settle (R278, log 15): the pattern and the
flags, from the operation's code and the operand's pattern. -/
opaque freeRounded : Nat → Nat → BitVec 64

/-- The carry word of an unresolved accumulator element: how X is split between S and C is not architected (R108,
R195, log 16). It depends on the prior sum and carry words and the term alone. -/
opaque carrySplit : BitVec 112 → BitVec 112 → Int → BitVec 112

/-- The channel, 0 to 383, on which a spread holds line `line` of stripe `stripe` (R400: where a line lies within its
channel is not architected; log 17). -/
opaque channelOf (spread stripe line : Nat) : Nat

/-- The bank and row of that line in its channel (R400, log 17). -/
opaque bankRowOf (spread stripe line : Nat) : Nat × Nat

/-- AES-256-XTS (R396): how a 128-byte line at an address is stored under the key that was installed under a number in a key id.
The spec names the cipher and gives none of its computation (log 116). -/
opaque xts (id gen addr : Nat) : BitVec 1024 → BitVec 1024

/-- The lines, by address, of the 2 KiB granule of its channel in which that line lies, the unit of the held-dirty map (R404,
log 17). -/
opaque granuleLines (spread stripe line : Nat) : List Nat

/-- The public half of a die's fused identity key, its certificate chain, and its measurements 1 to 3 of its fuse image, firmware and
configuration (R426, log 118). -/
opaque dieKey (die : Nat) : BitVec 512
opaque dieChain (die : Nat) : List (BitVec 8)
opaque measurement (die index : Nat) : BitVec 256

/-- The set hash that a slice forms from a line's address (R418, log 71). -/
opaque setHash (addr : Nat) : BitVec 9

/-- The L2 slice that homes a tier-2 line, a fixed hash over the slices of the trusted compute dies (R132, log 17). -/
opaque tier2Slice (trusted : List Nat) (addr : Nat) : Nat

end Sys2Proof.Config
end

