-- ==== Sys2Proof/Syntax.lean ====
section
/-!
DEFINITION. The instructions and events of the Stajor S9: one constructor for each row of spec/opcode_table.json.
The first group holds the instruction words (09 R204 to R218): `y` is the switch marker, the other fields are those of
the opcode tables as the word holds them. The second group holds the rows that are no instruction word: an event takes
the agent, server, unit or register value it concerns.
-/
namespace Sys2Proof

/-- One constructor per row of the opcode table. -/
inductive Instr where
  -- control (R209)
  | nop (y : Bool)
  | bra (y : Bool) (cc : BitVec 2) (cond : BitVec 4) (off : BitVec 18)
  | jmp (y : Bool) (off : BitVec 24)
  | jmpReg (y : Bool) (a : BitVec 8)
  | call (y : Bool) (off : BitVec 24)
  | callReg (y : Bool) (a : BitVec 8)
  | ret (y : Bool) (a : BitVec 8)
  | conv (y : Bool) (off : BitVec 24)
  | fuse (y : Bool)
  | exit (y : Bool)
  | bar (y : Bool) (n : BitVec 2)
  | acquire (y : Bool)
  | fork (y : Bool) (a b : BitVec 8)
  | rdv (y : Bool)
  | setmode (y : Bool) (m : BitVec 23)
  | getmode (y : Bool) (d : BitVec 8)
  | iregion (y : Bool)
  | sleepuntil (y : Bool) (a : BitVec 8)
  | trap (y : Bool) (code : BitVec 24)
  | tretRetry (y : Bool)
  | tretSkip (y : Bool)
  | tretTerm (y : Bool)
  -- integer, conversion and select (R210)
  | movi (y : Bool) (d : BitVec 8) (i : BitVec 16)
  | movih (y : Bool) (d : BitVec 8) (i : BitVec 16)
  | addi (y : Bool) (d : BitVec 8) (i : BitVec 16)
  | mov (y : Bool) (d a : BitVec 8)
  | iadd (y : Bool) (d a b : BitVec 8)
  | isub (y : Bool) (d a b : BitVec 8)
  | imul (y : Bool) (d a b : BitVec 8)
  | imulh (y : Bool) (d a b : BitVec 8)
  | imad (y : Bool) (d a b : BitVec 8)
  | idiv (y : Bool) (d a b : BitVec 8)
  | irem (y : Bool) (d a b : BitVec 8)
  | imin (y : Bool) (d a b : BitVec 8)
  | imax (y : Bool) (d a b : BitVec 8)
  | iabs (y : Bool) (d a : BitVec 8)
  | icmp (y : Bool) (a b : BitVec 8)
  | and (y : Bool) (d a b : BitVec 8)
  | or (y : Bool) (d a b : BitVec 8)
  | xor (y : Bool) (d a b : BitVec 8)
  | shl (y : Bool) (d a b : BitVec 8)
  | shr (y : Bool) (d a b : BitVec 8)
  | sar (y : Bool) (d a b : BitVec 8)
  | bfe (y : Bool) (d a b : BitVec 8)
  | bfi (y : Bool) (d a b : BitVec 8)
  | popc (y : Bool) (d a : BitVec 8)
  | clz (y : Bool) (d a : BitVec 8)
  | brev (y : Bool) (d a : BitVec 8)
  | cvt (y : Bool) (d : BitVec 7) (a f : BitVec 8)
  | cvtFrom (y : Bool) (d : BitVec 7) (a f : BitVec 8)
  | sel (y : Bool) (d a b : BitVec 8)
  -- float (R211)
  | fadd (y : Bool) (d a b : BitVec 8)
  | fsub (y : Bool) (d a b : BitVec 8)
  | fmul (y : Bool) (d a b : BitVec 8)
  | ffma (y : Bool) (d a b : BitVec 8)
  | fmin (y : Bool) (d a b : BitVec 8)
  | fmax (y : Bool) (d a b : BitVec 8)
  | fcmp (y : Bool) (a b : BitVec 8)
  | fsgn (y : Bool) (d a b : BitVec 8)
  | frcp (y : Bool) (d a : BitVec 8)
  | frsq (y : Bool) (d a : BitVec 8)
  | fsqrt (y : Bool) (d a : BitVec 8)
  | fdiv (y : Bool) (d a b : BitVec 8)
  | fexp2 (y : Bool) (d a : BitVec 8)
  | flog2 (y : Bool) (d a : BitVec 8)
  | fsin (y : Bool) (d a : BitVec 8)
  | fcos (y : Bool) (d a : BitVec 8)
  | fclass (y : Bool) (d a : BitVec 8)
  | frnd (y : Bool) (d a k : BitVec 8)
  -- lane and team (R212)
  | rfal (y : Bool) (d a : BitVec 8)
  | ballot (y : Bool) (d a : BitVec 8)
  | vote (y : Bool) (d a k : BitVec 8)
  | shfl (y : Bool) (d a b : BitVec 8)
  | xshuf (y : Bool) (d a b : BitVec 8)
  | redu (y : Bool) (d a : BitVec 8) (k : BitVec 4)
  | scan (y : Bool) (d a : BitVec 8) (e : BitVec 1) (k : BitVec 4)
  | shape (y : Bool) (d a : BitVec 8)
  | widf (y : Bool) (d : BitVec 8) (f : BitVec 3)
  | widf64 (y : Bool) (d : BitVec 8) (f : BitVec 3)
  | rdidx (y : Bool) (d a : BitVec 8)
  | wridx (y : Bool) (d a : BitVec 8)
  -- memory and async (R213)
  | ld (y : Bool) (d : BitVec 8) (b k : BitVec 4) (i : BitVec 8)
  | st (y : Bool) (d : BitVec 8) (b k : BitVec 4) (i : BitVec 8)
  | ldv (y : Bool) (d : BitVec 8) (b k : BitVec 4) (i : BitVec 8)
  | stv (y : Bool) (d : BitVec 8) (b k : BitVec 4) (i : BitVec 8)
  | lds (y : Bool) (d : BitVec 8) (b k : BitVec 4) (i : BitVec 8)
  | sts (y : Bool) (d : BitVec 8) (b k : BitVec 4) (i : BitVec 8)
  | atom (y : Bool) (d : BitVec 8) (b k : BitVec 4) (i : BitVec 8)
  | atoms (y : Bool) (d : BitVec 8) (b k : BitVec 4) (i : BitVec 8)
  | fence (y : Bool) (wack : BitVec 1) (kind : BitVec 2) (scope : BitVec 3)
  | ldrb (y : Bool) (d b k : BitVec 4) (i : BitVec 8)
  | mkrb (y : Bool) (d : BitVec 4) (a b : BitVec 8)
  | prfm (y : Bool) (b k : BitVec 4) (i : BitVec 8)
  | qclaim (y : Bool) (d : BitVec 8) (b : BitVec 4)
  | qwrite (y : Bool) (d : BitVec 8) (b k : BitVec 4) (i : BitVec 8)
  | qpost (y : Bool) (b : BitVec 4) (i : BitVec 8)
  | awaitf (y : Bool) (b : BitVec 4) (i : BitVec 8)
  | awaitfWindow (y : Bool) (b : BitVec 4) (i : BitVec 8)
  | relslot (y : Bool) (b : BitVec 4) (i : BitVec 8)
  | relslotWindow (y : Bool) (b : BitVec 4) (i : BitVec 8)
  | seal (y : Bool) (d a : BitVec 8)
  | sealRel (y : Bool) (a : BitVec 8)
  | publish (y : Bool) (b : BitVec 4)
  | rdprom (y : Bool) (d : BitVec 8) (b : BitVec 4) (i : BitVec 8)
  | rdpromWindow (y : Bool) (d : BitVec 8) (b : BitVec 4) (i : BitVec 8)
  -- matrix (R217)
  | mainit (y : Bool) (c : BitVec 2) (t : BitVec 3) (w : BitVec 12)
  | mainitAuto (y : Bool) (c : BitVec 2) (t : BitVec 3) (h : BitVec 5)
  | mma (y : Bool) (t : BitVec 3)
  | mresolve (y : Bool) (t : BitVec 3)
  | mdrain (y : Bool) (t : BitVec 3) (b k : BitVec 4) (i : BitVec 8)
  | mdrainRaw (y : Bool) (t : BitVec 3) (b k : BitVec 4) (i : BitVec 8)
  | mdrainp (y : Bool) (t u : BitVec 3)
  | msave (y : Bool) (b : BitVec 4) (t : BitVec 3) (a : BitVec 8)
  | msaveWindow (y : Bool) (b : BitVec 4) (t : BitVec 3) (a : BitVec 8)
  | mload (y : Bool) (b : BitVec 4) (t : BitVec 3) (a c : BitVec 8)
  | mloadWindow (y : Bool) (b : BitVec 4) (t : BitVec 3) (a c : BitVec 8)
  | mcmp (y : Bool) (d : BitVec 8) (t : BitVec 3) (b : BitVec 8)
  | mdrop (y : Bool) (t : BitVec 3)
  | mdropFa (y : Bool) (n : BitVec 16)
  | mdropFb (y : Bool) (n : BitVec 16)
  | mstat (y : Bool) (d : BitVec 8) (t : BitVec 3)
  | mwait (y : Bool) (t : BitVec 3) (n : BitVec 8)
  -- system (R218)
  | sysr (y : Bool) (d : BitVec 8) (n : BitVec 16)
  | sysw (y : Bool) (d : BitVec 8) (n : BitVec 16)
  | ptw (y : Bool) (a b : BitVec 8)
  | invlPage (y : Bool) (a : BitVec 8)
  | invlAll (y : Bool) (a : BitVec 8)
  | replace (y : Bool) (a : BitVec 8) (w : BitVec 2)
  | dcflush (y : Bool) (b k : BitVec 4) (i : BitVec 8)
  -- a word with an unassigned opcode (R207)
  | unassignedOpcode (w : Word)
  -- events of fragments (R83, R351, R360, R247, R243, R242)
  | longLatencyReturn (a : AgentId) (op : Nat)
  | trapDelivery (a : AgentId)
  | adviseDelivery (a : AgentId)
  | sleepExpiry (a : AgentId)
  | forkGrant (cluster : Nat)
  | acquireGrant (gid tid : Nat)
  -- launches and groups (R177, R366 to R381)
  | launchPacket (q : QueueId)
  | waitConditionCheck (die n : Nat)
  | groupAdmit (launch index : Nat)
  | poolEvent
  | quantumExpiry (vd : Nat)
  | preemptRequest (cluster vd : Nat) (quiesce : Bool)
  | drainDeadline (cluster : Nat)
  | groupRestore (gid cluster : Nat)
  | groupRestart (gid cluster : Nat)
  -- queues, packets and rings (R158 to R184)
  | queueSlotTake (q : QueueId)
  | copy (q : QueueId) (n : Nat)
  | filla (q : QueueId) (n : Nat)
  | fillb (q : QueueId) (n : Nat)
  | fifoPanelPush (q : QueueId)
  | mcast (q : QueueId) (n : Nat)
  | ckpt (q : QueueId) (n : Nat)
  | mark (q : QueueId)
  | packetComplete (q : QueueId)
  -- matrix unit (R187, R201)
  | matrixCommandPerform (gid : Nat)
  | peerArrival (gid : Nat)
  -- memory (R126, R146, R396 to R413)
  | lineRequest (id : Nat)
  | landingArrival (id : Nat)
  | writeBack (line : Nat) (evict : Bool)
  | checkDelta (n : Nat)
  | ferryStep (region : Nat)
  | homeHandoff (line : Nat)
  | scrubLine (line : Nat)
  | errorCounterHalving
  | hbmRetryReissue (id : Nat)
  | alert (channel : Nat) (recurs : Bool)
  | unitFailure (u : MemUnit)
  | checkRecompute (stripe : Nat)
  | clearSweep (unit n : Nat)
  | epochTick
  -- translation (R383 to R394)
  | prqrAdvance (vd : Nat) (value : Word)
  | pageReply (vd : Nat)
  | fsrootWrite (vd n : Nat) (value : Word)
  | rangeUpdate (vd : Nat) (cmd : Word)
  | rangeUpdateDone (vd : Nat)
  | publishEntryUpdate (vd : Nat) (cmd : Word)
  -- partitions (R415 to R424)
  | clqownWrite (cluster : Nat) (value : Word)
  | clspbWrite (cluster : Nat) (value : Word)
  | vdpolWrite (vd : Nat) (value : Word) (secure : Bool)
  | vdl2Write (vd : Nat) (value : Word)
  | l2ShareWalkDone (vd : Nat)
  | tokenRefill (vd us : Nat)
  | vdReset (vd : Nat) (value : Word)
  | vdResetDone (vd : Nat)
  | vdCreate (vd : Nat) (p : VdParams)
  | quiesceRequest (vd : Nat)
  | quiesceRelease (vd : Nat)
  | keyInstall (cmd : Word) (secure : Bool)
  | keyDestroy (cmd : Word) (secure : Bool)
  -- survival commands (R406 to R412)
  | retireBank (secure : Bool)
  | retireChannel (secure : Bool)
  | retireStack (secure : Bool)
  | repairRow (secure : Bool)
  | clear (secure : Bool)
  | retireRegion (secure : Bool)
  | returnStack (secure : Bool)
  | itent0Read
  -- trust, power and start (R427 to R439)
  | attestation (die : Nat) (o : AttestOutcome)
  | attestationTimeout (die : Nat)
  | dieReset (value : Word)
  | dieResetComplete (die : Nat)
  | dieSilence (die : Nat)
  | keyRollover (link dir : Nat)
  | oldKeyRetire (link dir : Nat)
  | flitAuthFailure (link dir : Nat)
  | wlogClear (value : Word) (secure : Bool)
  | wlogstatRead (secure : Bool)
  | powerSample (watts : Nat)
  | thermalEvent (die celsius : Nat)
  | moor (vd : Nat) (value : Word)
  | moorComplete (vd : Nat)
  | wake (vd : Nat) (value : Word)
  | wakeComplete (vd : Nat)
  | selfRefreshExit (channel : Nat)
  | coldStart (failing : List Nat)
  | warmStart (failing : List Nat) (completes : Bool)
  -- the outside world (R441, R446, R11, R183, R144)
  | companionAccess (dest : Reach) (addr : Nat) (what : HostAccess)
  | peerInboundAppend (vd desc : Nat) (words : List Word)
  | registerWrite (r : HReg) (vd : Nat) (value : Word) (secure : Bool)
  | promisePassed (a : AgentId)
  | writeAcknowledgement (a : AgentId)
  deriving DecidableEq, Repr

end Sys2Proof
end

