-- ==== Sys2Proof/WellFormed.lean ====
section
/-!
DEFINITION. Well-formed instruction words: every literal field legal (R205 LIT and MBZ, R77, R206, R214, R216, R217)
and every register field a specifier its kind allows (R57, R58, R205). The checks that need the mode, the team or its
allotment are made when the instruction issues (R88).
-/
namespace Sys2Proof

/-- A specifier that may be read: 0x00 to 0xD8 (R57). -/
def isSrc (r : BitVec 8) : Bool := r.toNat ≤ 0xD8
/-- A specifier that may be written: v, o or x0 (R58). -/
def isDst (r : BitVec 8) : Bool := r.toNat ≤ 0xD0
/-- A specifier that a long-latency instruction may write: v or o (R205). -/
def isLongDst (r : BitVec 8) : Bool := r.toNat ≤ 0xCF
/-- A PAIR that is read: an even v or o register, x0 to x3, or ZERO (R205). -/
def isPairSrc (r : BitVec 8) : Bool :=
  (r.toNat ≤ 0xCF && r.toNat % 2 == 0) || (0xD0 ≤ r.toNat && r.toNat ≤ 0xD4)
/-- A QUAD: a v or o register that is a multiple of 4 (R205). -/
def isQuad (r : BitVec 8) : Bool := r.toNat ≤ 0xCF && r.toNat % 4 == 0
/-- A PAIR that a long-latency instruction writes. -/
def isLongPair (r : BitVec 8) : Bool := r.toNat ≤ 0xCF && r.toNat % 2 == 0
/-- A PAIR that a fixed-latency instruction writes; x0 is a legal pair (R205). -/
def isPairDst (r : BitVec 8) : Bool := isLongPair r || r.toNat == 0xD0

/-- The mode image holds no reserved value (R77). -/
def modeImageOk (m : BitVec 23) : Bool :=
  let n := m.toNat
  bitsOf n 0 4 ≤ 11 && bitsOf n 10 3 ≤ 4 && bitsOf n 13 3 ≤ 5 && bitsOf n 20 3 ≤ 6

/-- A CVT format code that is not reserved (R214). -/
def formatOk (f : BitVec 8) : Bool :=
  let n := f.toNat
  n ≤ 0x0B || (0x40 ≤ n && n ≤ 0x77 && n % 2 == 0) || n == 0x80

/-- An OFF24 that is not the register form (R206). -/
def offsetForm (off : BitVec 24) : Bool := off.toNat / 256 != 0x8000

/-- The opcode slots that no instruction takes (R207). -/
def opcodeAssigned (op : Nat) : Bool :=
  (0x01 ≤ op && op ≤ 0x12) || (0x18 ≤ op && op ≤ 0x75)

/-- Every literal of the word has a legal value; the decoder refuses the word otherwise, and it traps ILLOP (R205). -/
def Instr.literalsOk : Instr → Bool
  | .jmp _ off | .call _ off | .conv _ off => offsetForm off
  | .setmode _ m => modeImageOk m
  | .cvt _ _ _ f | .cvtFrom _ _ _ f => formatOk f
  | .frnd _ _ _ k => k.toNat ≤ 5
  | .vote _ _ _ k => k.toNat ≤ 2
  | .redu _ _ _ k | .scan _ _ _ _ k => k.toNat ≤ 5
  | .widf _ _ f | .widf64 _ _ f => f.toNat ≤ 5
  | .atom _ _ _ k _ | .atoms _ _ _ k _ => k.toNat ≤ 10
  | .fence _ _ _ s => s.toNat ≤ 6
  | .qwrite _ _ _ k _ => k.toNat ≤ 3
  | .mainit _ c t _ | .mainitAuto _ c t _ => c.toNat ≤ 2 && !(c.toNat == 2 && t.toNat % 2 == 1)
  | .mdropFa _ n | .mdropFb _ n => 1 ≤ n.toNat && n.toNat ≤ 16
  | .mwait _ _ n => n.toNat != 0
  | .unassignedOpcode w => !opcodeAssigned (w.toNat / 2 ^ 24 % 128)
  | _ => true

/-- Every register field is a specifier that its kind allows whatever the mode (R57, R58, R205). -/
def Instr.regsOk : Instr → Bool
  | .jmpReg _ a | .callReg _ a | .ret _ a | .invlPage _ a | .invlAll _ a => isPairSrc a
  | .fork _ a b | .mkrb _ _ a b | .ptw _ a b => isPairSrc a && isPairSrc b
  | .sleepuntil _ a | .sealRel _ a | .replace _ a _ => isSrc a
  | .getmode _ d | .movi _ d _ | .movih _ d _ | .addi _ d _ | .widf _ d _ | .sysr _ d _ => isDst d
  | .widf64 _ d _ => isPairDst d
  | .sysw _ d _ => isSrc d
  | .mov _ d a | .iabs _ d a | .popc _ d a | .clz _ d a | .brev _ d a | .fclass _ d a | .frnd _ d a _
  | .shape _ d a | .rdidx _ d a | .rfal _ d a => isDst d && isSrc a
  | .wridx _ d a => isSrc d && isSrc a
  | .cvt _ _ a _ | .cvtFrom _ _ a _ => isSrc a
  | .iadd _ d a b | .isub _ d a b | .imul _ d a b | .imulh _ d a b | .imad _ d a b | .imin _ d a b
  | .imax _ d a b | .and _ d a b | .or _ d a b | .xor _ d a b | .shl _ d a b | .shr _ d a b
  | .sar _ d a b | .bfe _ d a b | .bfi _ d a b | .sel _ d a b | .fadd _ d a b | .fsub _ d a b
  | .fmul _ d a b | .ffma _ d a b | .fmin _ d a b | .fmax _ d a b | .fsgn _ d a b =>
      isDst d && isSrc a && isSrc b
  | .idiv _ d a b | .irem _ d a b | .fdiv _ d a b | .shfl _ d a b | .xshuf _ d a b =>
      isLongDst d && isSrc a && isSrc b
  | .icmp _ a b | .fcmp _ a b => isSrc a && isSrc b
  | .frcp _ d a | .frsq _ d a | .fsqrt _ d a | .fexp2 _ d a | .flog2 _ d a | .fsin _ d a | .fcos _ d a
  | .ballot _ d a | .vote _ d a _ | .redu _ d a _ | .scan _ d a _ _ => isLongDst d && isSrc a
  | .ld _ d _ _ i | .lds _ d _ _ i => isLongDst d && isSrc i
  | .st _ d _ _ i | .sts _ d _ _ i => isSrc d && isSrc i
  | .ldv _ d _ _ i | .stv _ d _ _ i | .qwrite _ d _ _ i => isQuad d && isSrc i
  | .atom _ d _ _ i | .atoms _ d _ _ i | .rdprom _ d _ i | .rdpromWindow _ d _ i => isLongPair d && isSrc i
  | .ldrb _ _ _ _ i | .prfm _ _ _ i | .qpost _ _ i | .awaitf _ _ i | .awaitfWindow _ _ i
  | .relslot _ _ i | .relslotWindow _ _ i | .mdrain _ _ _ _ i | .mdrainRaw _ _ _ _ i
  | .dcflush _ _ _ i => isSrc i
  | .qclaim _ d _ | .mstat _ d _ => isLongDst d
  | .seal _ d a => isLongDst d && isPairSrc a
  | .msave _ _ _ a | .msaveWindow _ _ _ a => isSrc a
  | .mload _ _ _ a c | .mloadWindow _ _ _ a c => isSrc a && isSrc c
  | .mcmp _ d _ b => isLongDst d && isSrc b
  | _ => true

/-- Well-formed: the literals and the register fields are legal. -/
def Instr.wf (i : Instr) : Bool := i.literalsOk && i.regsOk

/-- An instruction word, not an event. -/
def Instr.isWord : Instr → Bool
  | .unassignedOpcode _ => true
  | .longLatencyReturn .. | .trapDelivery .. | .adviseDelivery .. | .sleepExpiry .. | .forkGrant ..
  | .acquireGrant .. | .launchPacket .. | .waitConditionCheck .. | .groupAdmit .. | .poolEvent
  | .quantumExpiry .. | .preemptRequest .. | .drainDeadline .. | .groupRestore .. | .groupRestart ..
  | .queueSlotTake .. | .copy .. | .filla .. | .fillb .. | .fifoPanelPush .. | .mcast .. | .ckpt .. | .mark ..
  | .packetComplete .. | .matrixCommandPerform .. | .peerArrival .. | .lineRequest .. | .landingArrival ..
  | .writeBack .. | .checkDelta .. | .ferryStep .. | .homeHandoff .. | .scrubLine .. | .errorCounterHalving
  | .hbmRetryReissue .. | .alert .. | .unitFailure .. | .checkRecompute .. | .clearSweep .. | .epochTick
  | .prqrAdvance .. | .pageReply .. | .fsrootWrite .. | .rangeUpdate .. | .rangeUpdateDone ..
  | .publishEntryUpdate .. | .clqownWrite .. | .clspbWrite .. | .vdpolWrite .. | .vdl2Write ..
  | .l2ShareWalkDone .. | .tokenRefill .. | .vdReset .. | .vdResetDone .. | .vdCreate .. | .quiesceRequest ..
  | .quiesceRelease .. | .keyInstall .. | .keyDestroy .. | .retireBank .. | .retireChannel .. | .retireStack ..
  | .repairRow .. | .clear .. | .retireRegion .. | .returnStack .. | .itent0Read | .attestation ..
  | .attestationTimeout .. | .dieReset .. | .dieResetComplete .. | .dieSilence .. | .keyRollover ..
  | .oldKeyRetire .. | .flitAuthFailure .. | .wlogClear .. | .wlogstatRead .. | .powerSample ..
  | .thermalEvent .. | .moor .. | .moorComplete .. | .wake .. | .wakeComplete .. | .selfRefreshExit ..
  | .coldStart .. | .warmStart .. | .companionAccess .. | .peerInboundAppend .. | .registerWrite ..
  | .promisePassed .. | .writeAcknowledgement .. => false
  | _ => true

end Sys2Proof
end

