-- ==== Sys2Proof/Decode.lean ====
section
/-!
DEFINITION. Decoding and encoding of instruction words, from the formats and opcode tables of 09 (R203 to R218).
The decoder refuses, by name, exactly the words whose fields break a MBZ, LIT or TILE kind: they trap ILLOP when they
are executed (R205, R219). Register fields are kept as the word holds them; their checks are made at issue (R88).
-/
namespace Sys2Proof

/-- Why a word is no instruction (R219). -/
inductive DecodeError where
  /-- an assigned opcode with a MBZ field that is not zero -/
  | mbz
  /-- an assigned opcode with a reserved literal -/
  | reservedLiteral
  deriving DecidableEq, Repr

/-- Bit 31, the switch marker Y (R203). -/
def yOf (w : Word) : Bool := w.getLsbD 31
/-- Bits [30:24], the opcode (R203). -/
def opOf (w : Word) : BitVec 7 := w.extractLsb' 24 7
/-- Bits [23:16], the D field (R204). -/
def dOf (w : Word) : BitVec 8 := w.extractLsb' 16 8
/-- Bits [15:8], the A field (R204). -/
def aOf (w : Word) : BitVec 8 := w.extractLsb' 8 8
/-- Bits [7:0], the B field, or I of FM (R204). -/
def bOf (w : Word) : BitVec 8 := w.extractLsb' 0 8
/-- imm16 of FI (R204). -/
def imm16Of (w : Word) : BitVec 16 := w.extractLsb' 0 16
/-- The 24 bits of FJ and FS (R204). -/
def imm24Of (w : Word) : BitVec 24 := w.extractLsb' 0 24
/-- BW of FM, bits [15:12] (R204). -/
def bwOf (w : Word) : BitVec 4 := w.extractLsb' 12 4
/-- K of FM, bits [11:8] (R204). -/
def kOf (w : Word) : BitVec 4 := w.extractLsb' 8 4

/-- Accept an instruction when the MBZ condition holds and its literals are legal. -/
def accept (mbzOk : Bool) (i : Instr) : Except DecodeError Instr :=
  if mbzOk then (if i.literalsOk then .ok i else .error .reservedLiteral) else .error .mbz

/-- The instruction that a word holds, by its opcode (R203). A word with an unassigned opcode is the row
UNASSIGNED_OPCODE (R207). -/
def decodeOp (w : Word) : Nat → Except DecodeError Instr
  | 0x01 => accept (dOf w == 0#8 && aOf w == 0#8 && bOf w == 0#8) (.nop (yOf w) )
  | 0x02 => accept true (.bra (yOf w) (w.extractLsb' 22 2) (w.extractLsb' 18 4) (w.extractLsb' 0 18))
  | 0x03 => if w.extractLsb' 8 16 == 0x8000#16 then accept true (.jmpReg (yOf w) (bOf w))
      else accept true (.jmp (yOf w) (imm24Of w))
  | 0x04 => if w.extractLsb' 8 16 == 0x8000#16 then accept true (.callReg (yOf w) (bOf w))
      else accept true (.call (yOf w) (imm24Of w))
  | 0x05 => accept (dOf w == 0#8 && bOf w == 0#8) (.ret (yOf w) (aOf w))
  | 0x06 => accept true (.conv (yOf w) (imm24Of w))
  | 0x07 => accept (dOf w == 0#8 && aOf w == 0#8 && bOf w == 0#8) (.fuse (yOf w) )
  | 0x08 => accept (dOf w == 0#8 && aOf w == 0#8 && bOf w == 0#8) (.exit (yOf w) )
  | 0x09 => accept (dOf w == 0#8 && w.extractLsb' 2 14 == 0#14) (.bar (yOf w) (w.extractLsb' 0 2))
  | 0x0a => accept (dOf w == 0#8 && aOf w == 0#8 && bOf w == 0#8) (.acquire (yOf w) )
  | 0x0b => accept (dOf w == 0#8) (.fork (yOf w) (aOf w) (bOf w))
  | 0x0c => accept (dOf w == 0#8 && aOf w == 0#8 && bOf w == 0#8) (.rdv (yOf w) )
  | 0x0d => accept (!w.getLsbD 23) (.setmode (yOf w) (w.extractLsb' 0 23))
  | 0x0e => accept (aOf w == 0#8 && bOf w == 0#8) (.getmode (yOf w) (dOf w))
  | 0x0f => accept (dOf w == 0#8 && aOf w == 0#8 && bOf w == 0#8) (.iregion (yOf w) )
  | 0x10 => accept (dOf w == 0#8 && bOf w == 0#8) (.sleepuntil (yOf w) (aOf w))
  | 0x11 => accept true (.trap (yOf w) (imm24Of w))
  | 0x12 => if imm24Of w == 0#24 then accept true (.tretRetry (yOf w))
      else if imm24Of w == 1#24 then accept true (.tretSkip (yOf w))
      else if imm24Of w == 2#24 then accept true (.tretTerm (yOf w))
      else if imm24Of w == 3#24 then .error .reservedLiteral else .error .mbz
  | 0x18 => accept true (.movi (yOf w) (dOf w) (imm16Of w))
  | 0x19 => accept true (.movih (yOf w) (dOf w) (imm16Of w))
  | 0x1a => accept true (.addi (yOf w) (dOf w) (imm16Of w))
  | 0x1b => accept (bOf w == 0#8) (.mov (yOf w) (dOf w) (aOf w))
  | 0x1c => accept (true) (.iadd (yOf w) (dOf w) (aOf w) (bOf w))
  | 0x1d => accept (true) (.isub (yOf w) (dOf w) (aOf w) (bOf w))
  | 0x1e => accept (true) (.imul (yOf w) (dOf w) (aOf w) (bOf w))
  | 0x1f => accept (true) (.imulh (yOf w) (dOf w) (aOf w) (bOf w))
  | 0x20 => accept (true) (.imad (yOf w) (dOf w) (aOf w) (bOf w))
  | 0x21 => accept (true) (.idiv (yOf w) (dOf w) (aOf w) (bOf w))
  | 0x22 => accept (true) (.irem (yOf w) (dOf w) (aOf w) (bOf w))
  | 0x23 => accept (true) (.imin (yOf w) (dOf w) (aOf w) (bOf w))
  | 0x24 => accept (true) (.imax (yOf w) (dOf w) (aOf w) (bOf w))
  | 0x25 => accept (bOf w == 0#8) (.iabs (yOf w) (dOf w) (aOf w))
  | 0x26 => accept (dOf w == 0#8) (.icmp (yOf w) (aOf w) (bOf w))
  | 0x27 => accept (true) (.and (yOf w) (dOf w) (aOf w) (bOf w))
  | 0x28 => accept (true) (.or (yOf w) (dOf w) (aOf w) (bOf w))
  | 0x29 => accept (true) (.xor (yOf w) (dOf w) (aOf w) (bOf w))
  | 0x2a => accept (true) (.shl (yOf w) (dOf w) (aOf w) (bOf w))
  | 0x2b => accept (true) (.shr (yOf w) (dOf w) (aOf w) (bOf w))
  | 0x2c => accept (true) (.sar (yOf w) (dOf w) (aOf w) (bOf w))
  | 0x2d => accept (true) (.bfe (yOf w) (dOf w) (aOf w) (bOf w))
  | 0x2e => accept (true) (.bfi (yOf w) (dOf w) (aOf w) (bOf w))
  | 0x2f => accept (bOf w == 0#8) (.popc (yOf w) (dOf w) (aOf w))
  | 0x30 => accept (bOf w == 0#8) (.clz (yOf w) (dOf w) (aOf w))
  | 0x31 => accept (bOf w == 0#8) (.brev (yOf w) (dOf w) (aOf w))
  | 0x32 => if w.getLsbD 23 then accept true (.cvtFrom (yOf w) (w.extractLsb' 16 7) (aOf w) (bOf w))
      else accept true (.cvt (yOf w) (w.extractLsb' 16 7) (aOf w) (bOf w))
  | 0x33 => accept (true) (.sel (yOf w) (dOf w) (aOf w) (bOf w))
  | 0x34 => accept (true) (.fadd (yOf w) (dOf w) (aOf w) (bOf w))
  | 0x35 => accept (true) (.fsub (yOf w) (dOf w) (aOf w) (bOf w))
  | 0x36 => accept (true) (.fmul (yOf w) (dOf w) (aOf w) (bOf w))
  | 0x37 => accept (true) (.ffma (yOf w) (dOf w) (aOf w) (bOf w))
  | 0x38 => accept (true) (.fmin (yOf w) (dOf w) (aOf w) (bOf w))
  | 0x39 => accept (true) (.fmax (yOf w) (dOf w) (aOf w) (bOf w))
  | 0x3a => accept (dOf w == 0#8) (.fcmp (yOf w) (aOf w) (bOf w))
  | 0x3b => accept (true) (.fsgn (yOf w) (dOf w) (aOf w) (bOf w))
  | 0x3c => accept (bOf w == 0#8) (.frcp (yOf w) (dOf w) (aOf w))
  | 0x3d => accept (bOf w == 0#8) (.frsq (yOf w) (dOf w) (aOf w))
  | 0x3e => accept (bOf w == 0#8) (.fsqrt (yOf w) (dOf w) (aOf w))
  | 0x3f => accept (true) (.fdiv (yOf w) (dOf w) (aOf w) (bOf w))
  | 0x40 => accept (bOf w == 0#8) (.fexp2 (yOf w) (dOf w) (aOf w))
  | 0x41 => accept (bOf w == 0#8) (.flog2 (yOf w) (dOf w) (aOf w))
  | 0x42 => accept (bOf w == 0#8) (.fsin (yOf w) (dOf w) (aOf w))
  | 0x43 => accept (bOf w == 0#8) (.fcos (yOf w) (dOf w) (aOf w))
  | 0x44 => accept (bOf w == 0#8) (.fclass (yOf w) (dOf w) (aOf w))
  | 0x45 => accept (true) (.frnd (yOf w) (dOf w) (aOf w) (bOf w))
  | 0x46 => accept (bOf w == 0#8) (.rfal (yOf w) (dOf w) (aOf w))
  | 0x47 => accept (bOf w == 0#8) (.ballot (yOf w) (dOf w) (aOf w))
  | 0x48 => accept (true) (.vote (yOf w) (dOf w) (aOf w) (bOf w))
  | 0x49 => accept (true) (.shfl (yOf w) (dOf w) (aOf w) (bOf w))
  | 0x4a => accept (true) (.xshuf (yOf w) (dOf w) (aOf w) (bOf w))
  | 0x4b => accept (w.extractLsb' 4 4 == 0#4) (.redu (yOf w) (dOf w) (aOf w) (w.extractLsb' 0 4))
  | 0x4c => accept (w.extractLsb' 5 3 == 0#3) (.scan (yOf w) (dOf w) (aOf w) (w.extractLsb' 4 1) (w.extractLsb' 0 4))
  | 0x4d => accept (bOf w == 0#8) (.shape (yOf w) (dOf w) (aOf w))
  | 0x4e => if w.getLsbD 3 then accept (w.extractLsb' 4 12 == 0#12) (.widf64 (yOf w) (dOf w) (w.extractLsb' 0 3))
      else accept (w.extractLsb' 4 12 == 0#12) (.widf (yOf w) (dOf w) (w.extractLsb' 0 3))
  | 0x4f => accept (bOf w == 0#8) (.rdidx (yOf w) (dOf w) (aOf w))
  | 0x50 => accept (bOf w == 0#8) (.wridx (yOf w) (dOf w) (aOf w))
  | 0x51 => accept (true) (.ld (yOf w) (dOf w) (bwOf w) (kOf w) (bOf w))
  | 0x52 => accept (true) (.st (yOf w) (dOf w) (bwOf w) (kOf w) (bOf w))
  | 0x53 => accept (true) (.ldv (yOf w) (dOf w) (bwOf w) (kOf w) (bOf w))
  | 0x54 => accept (true) (.stv (yOf w) (dOf w) (bwOf w) (kOf w) (bOf w))
  | 0x55 => accept (true) (.lds (yOf w) (dOf w) (bwOf w) (kOf w) (bOf w))
  | 0x56 => accept (true) (.sts (yOf w) (dOf w) (bwOf w) (kOf w) (bOf w))
  | 0x57 => accept (true) (.atom (yOf w) (dOf w) (bwOf w) (kOf w) (bOf w))
  | 0x58 => accept (true) (.atoms (yOf w) (dOf w) (bwOf w) (kOf w) (bOf w))
  | 0x59 => accept (dOf w == 0#8 && w.extractLsb' 6 10 == 0#10) (.fence (yOf w) (w.extractLsb' 5 1) (w.extractLsb' 3 2) (w.extractLsb' 0 3))
  | 0x5a => accept (w.extractLsb' 20 4 == 0#4) (.ldrb (yOf w) (w.extractLsb' 16 4) (bwOf w) (kOf w) (bOf w))
  | 0x5b => accept (w.extractLsb' 20 4 == 0#4) (.mkrb (yOf w) (w.extractLsb' 16 4) (aOf w) (bOf w))
  | 0x5c => accept (dOf w == 0#8) (.prfm (yOf w) (bwOf w) (kOf w) (bOf w))
  | 0x5d => accept (kOf w == 0#4 && bOf w == 0#8) (.qclaim (yOf w) (dOf w) (bwOf w))
  | 0x5e => accept (true) (.qwrite (yOf w) (dOf w) (bwOf w) (kOf w) (bOf w))
  | 0x5f => accept (dOf w == 0#8 && kOf w == 0#4) (.qpost (yOf w) (bwOf w) (bOf w))
  | 0x60 => if kOf w == 1#4 then accept (dOf w == 0#8 && kOf w == 1#4) (.awaitfWindow (yOf w) (bwOf w) (bOf w))
      else accept (dOf w == 0#8 && kOf w == 0#4) (.awaitf (yOf w) (bwOf w) (bOf w))
  | 0x61 => if kOf w == 1#4 then accept (dOf w == 0#8 && kOf w == 1#4) (.relslotWindow (yOf w) (bwOf w) (bOf w))
      else accept (dOf w == 0#8 && kOf w == 0#4) (.relslot (yOf w) (bwOf w) (bOf w))
  | 0x62 => if bOf w == 0#8 then accept true (.seal (yOf w) (dOf w) (aOf w))
      else if bOf w == 1#8 then accept (dOf w == 0#8) (.sealRel (yOf w) (aOf w)) else .error .reservedLiteral
  | 0x63 => accept (dOf w == 0#8 && kOf w == 0#4 && bOf w == 0#8) (.publish (yOf w) (bwOf w))
  | 0x64 => if kOf w == 1#4 then accept (kOf w == 1#4) (.rdpromWindow (yOf w) (dOf w) (bwOf w) (bOf w))
      else accept (kOf w == 0#4) (.rdprom (yOf w) (dOf w) (bwOf w) (bOf w))
  | 0x65 => if w.getLsbD 21 then accept (w.extractLsb' 22 2 == 0#2 && w.extractLsb' 5 11 == 0#11)
        (.mainitAuto (yOf w) (w.extractLsb' 19 2) (w.extractLsb' 16 3) (w.extractLsb' 0 5))
      else accept (w.extractLsb' 22 2 == 0#2 && w.extractLsb' 12 4 == 0#4)
        (.mainit (yOf w) (w.extractLsb' 19 2) (w.extractLsb' 16 3) (w.extractLsb' 0 12))
  | 0x66 => accept (w.extractLsb' 19 5 == 0#5 && imm16Of w == 0#16) (.mma (yOf w) (w.extractLsb' 16 3))
  | 0x67 => accept (w.extractLsb' 19 5 == 0#5 && imm16Of w == 0#16) (.mresolve (yOf w) (w.extractLsb' 16 3))
  | 0x68 => if w.getLsbD 23 then accept (w.extractLsb' 19 4 == 0#4) (.mdrainRaw (yOf w) (w.extractLsb' 16 3) (bwOf w) (kOf w) (bOf w))
      else accept (w.extractLsb' 19 4 == 0#4) (.mdrain (yOf w) (w.extractLsb' 16 3) (bwOf w) (kOf w) (bOf w))
  | 0x69 => accept (w.extractLsb' 19 5 == 0#5 && w.extractLsb' 11 5 == 0#5 && bOf w == 0#8) (.mdrainp (yOf w) (w.extractLsb' 16 3) (w.extractLsb' 8 3))
  | 0x6a => if w.getLsbD 23 then accept (bOf w == 0#8) (.msaveWindow (yOf w) (w.extractLsb' 19 4) (w.extractLsb' 16 3) (aOf w))
      else accept (bOf w == 0#8) (.msave (yOf w) (w.extractLsb' 19 4) (w.extractLsb' 16 3) (aOf w))
  | 0x6b => if w.getLsbD 23 then accept true (.mloadWindow (yOf w) (w.extractLsb' 19 4) (w.extractLsb' 16 3) (aOf w) (bOf w))
      else accept true (.mload (yOf w) (w.extractLsb' 19 4) (w.extractLsb' 16 3) (aOf w) (bOf w))
  | 0x6c => accept (w.extractLsb' 11 5 == 0#5) (.mcmp (yOf w) (dOf w) (w.extractLsb' 8 3) (bOf w))
  | 0x6d => if w.extractLsb' 19 2 == 0#2 then accept (w.extractLsb' 21 3 == 0#3 && imm16Of w == 0#16) (.mdrop (yOf w) (w.extractLsb' 16 3))
      else if w.extractLsb' 19 2 == 1#2 then accept (w.extractLsb' 21 3 == 0#3 && (w.extractLsb' 16 3) == 0#3) (.mdropFa (yOf w) (imm16Of w))
      else if w.extractLsb' 19 2 == 2#2 then accept (w.extractLsb' 21 3 == 0#3 && (w.extractLsb' 16 3) == 0#3) (.mdropFb (yOf w) (imm16Of w))
      else .error .reservedLiteral
  | 0x6e => accept (w.extractLsb' 11 5 == 0#5 && bOf w == 0#8) (.mstat (yOf w) (dOf w) (w.extractLsb' 8 3))
  | 0x6f => accept (w.extractLsb' 19 5 == 0#5 && w.extractLsb' 8 8 == 0#8) (.mwait (yOf w) (w.extractLsb' 16 3) (bOf w))
  | 0x70 => accept true (.sysr (yOf w) (dOf w) (imm16Of w))
  | 0x71 => accept true (.sysw (yOf w) (dOf w) (imm16Of w))
  | 0x72 => accept (dOf w == 0#8) (.ptw (yOf w) (aOf w) (bOf w))
  | 0x73 => if bOf w == 0#8 then accept (dOf w == 0#8) (.invlPage (yOf w) (aOf w))
      else if bOf w == 1#8 then accept (dOf w == 0#8) (.invlAll (yOf w) (aOf w)) else .error .reservedLiteral
  | 0x74 => accept (dOf w == 0#8 && w.extractLsb' 2 6 == 0#6) (.replace (yOf w) (aOf w) (w.extractLsb' 0 2))
  | 0x75 => accept (dOf w == 0#8) (.dcflush (yOf w) (bwOf w) (kOf w) (bOf w))
  | _ => accept true (.unassignedOpcode w)

/-- The decoder: total on every word (R203, R219). -/
def decode (w : Word) : Except DecodeError Instr := decodeOp w (opOf w).toNat

/-- A word of the formats F3 and FM: Y, opcode and three bytes (R204). -/
def packF3 (y : Bool) (op : BitVec 7) (d a b : BitVec 8) : Word :=
  (BitVec.ofBool y ++ op ++ d ++ a ++ b).cast (by decide)

/-- A word of the formats FI, FB, FJ and FS: Y, opcode and 24 bits (R204). -/
def packF24 (y : Bool) (op : BitVec 7) (x : BitVec 24) : Word :=
  (BitVec.ofBool y ++ op ++ x).cast (by decide)

/-- The word of an instruction, from the same tables; an event has none. -/
def encode : Instr → Option Word
  | .nop y => some (packF3 y 0x01#7 0#8 0#8 0#8)
  | .bra y cc cond off => some (packF24 y 0x02#7 (cc ++ cond ++ off))
  | .jmp y off => some (packF24 y 0x03#7 off)
  | .jmpReg y a => some (packF24 y 0x03#7 (0x8000#16 ++ a))
  | .call y off => some (packF24 y 0x04#7 off)
  | .callReg y a => some (packF24 y 0x04#7 (0x8000#16 ++ a))
  | .ret y a => some (packF3 y 0x05#7 0#8 a 0#8)
  | .conv y off => some (packF24 y 0x06#7 off)
  | .fuse y => some (packF3 y 0x07#7 0#8 0#8 0#8)
  | .exit y => some (packF3 y 0x08#7 0#8 0#8 0#8)
  | .bar y n => some (packF24 y 0x09#7 (0#22 ++ n))
  | .acquire y => some (packF3 y 0x0a#7 0#8 0#8 0#8)
  | .fork y a b => some (packF3 y 0x0b#7 0#8 a b)
  | .rdv y => some (packF3 y 0x0c#7 0#8 0#8 0#8)
  | .setmode y m => some (packF24 y 0x0d#7 (0#1 ++ m))
  | .getmode y d => some (packF3 y 0x0e#7 d 0#8 0#8)
  | .iregion y => some (packF3 y 0x0f#7 0#8 0#8 0#8)
  | .sleepuntil y a => some (packF3 y 0x10#7 0#8 a 0#8)
  | .trap y code => some (packF24 y 0x11#7 code)
  | .tretRetry y => some (packF24 y 0x12#7 0#24)
  | .tretSkip y => some (packF24 y 0x12#7 1#24)
  | .tretTerm y => some (packF24 y 0x12#7 2#24)
  | .movi y d i => some (packF24 y 0x18#7 (d ++ i))
  | .movih y d i => some (packF24 y 0x19#7 (d ++ i))
  | .addi y d i => some (packF24 y 0x1a#7 (d ++ i))
  | .mov y d a => some (packF3 y 0x1b#7 d a 0#8)
  | .iadd y d a b => some (packF3 y 0x1c#7 d a b)
  | .isub y d a b => some (packF3 y 0x1d#7 d a b)
  | .imul y d a b => some (packF3 y 0x1e#7 d a b)
  | .imulh y d a b => some (packF3 y 0x1f#7 d a b)
  | .imad y d a b => some (packF3 y 0x20#7 d a b)
  | .idiv y d a b => some (packF3 y 0x21#7 d a b)
  | .irem y d a b => some (packF3 y 0x22#7 d a b)
  | .imin y d a b => some (packF3 y 0x23#7 d a b)
  | .imax y d a b => some (packF3 y 0x24#7 d a b)
  | .iabs y d a => some (packF3 y 0x25#7 d a 0#8)
  | .icmp y a b => some (packF3 y 0x26#7 0#8 a b)
  | .and y d a b => some (packF3 y 0x27#7 d a b)
  | .or y d a b => some (packF3 y 0x28#7 d a b)
  | .xor y d a b => some (packF3 y 0x29#7 d a b)
  | .shl y d a b => some (packF3 y 0x2a#7 d a b)
  | .shr y d a b => some (packF3 y 0x2b#7 d a b)
  | .sar y d a b => some (packF3 y 0x2c#7 d a b)
  | .bfe y d a b => some (packF3 y 0x2d#7 d a b)
  | .bfi y d a b => some (packF3 y 0x2e#7 d a b)
  | .popc y d a => some (packF3 y 0x2f#7 d a 0#8)
  | .clz y d a => some (packF3 y 0x30#7 d a 0#8)
  | .brev y d a => some (packF3 y 0x31#7 d a 0#8)
  | .cvt y d a f => some (packF3 y 0x32#7 (0#1 ++ d) a f)
  | .cvtFrom y d a f => some (packF3 y 0x32#7 (1#1 ++ d) a f)
  | .sel y d a b => some (packF3 y 0x33#7 d a b)
  | .fadd y d a b => some (packF3 y 0x34#7 d a b)
  | .fsub y d a b => some (packF3 y 0x35#7 d a b)
  | .fmul y d a b => some (packF3 y 0x36#7 d a b)
  | .ffma y d a b => some (packF3 y 0x37#7 d a b)
  | .fmin y d a b => some (packF3 y 0x38#7 d a b)
  | .fmax y d a b => some (packF3 y 0x39#7 d a b)
  | .fcmp y a b => some (packF3 y 0x3a#7 0#8 a b)
  | .fsgn y d a b => some (packF3 y 0x3b#7 d a b)
  | .frcp y d a => some (packF3 y 0x3c#7 d a 0#8)
  | .frsq y d a => some (packF3 y 0x3d#7 d a 0#8)
  | .fsqrt y d a => some (packF3 y 0x3e#7 d a 0#8)
  | .fdiv y d a b => some (packF3 y 0x3f#7 d a b)
  | .fexp2 y d a => some (packF3 y 0x40#7 d a 0#8)
  | .flog2 y d a => some (packF3 y 0x41#7 d a 0#8)
  | .fsin y d a => some (packF3 y 0x42#7 d a 0#8)
  | .fcos y d a => some (packF3 y 0x43#7 d a 0#8)
  | .fclass y d a => some (packF3 y 0x44#7 d a 0#8)
  | .frnd y d a k => some (packF3 y 0x45#7 d a k)
  | .rfal y d a => some (packF3 y 0x46#7 d a 0#8)
  | .ballot y d a => some (packF3 y 0x47#7 d a 0#8)
  | .vote y d a k => some (packF3 y 0x48#7 d a k)
  | .shfl y d a b => some (packF3 y 0x49#7 d a b)
  | .xshuf y d a b => some (packF3 y 0x4a#7 d a b)
  | .redu y d a k => some (packF3 y 0x4b#7 d a (0#4 ++ k))
  | .scan y d a e k => some (packF3 y 0x4c#7 d a (0#3 ++ e ++ k))
  | .shape y d a => some (packF3 y 0x4d#7 d a 0#8)
  | .widf y d f => some (packF24 y 0x4e#7 (d ++ 0#12 ++ 0#1 ++ f))
  | .widf64 y d f => some (packF24 y 0x4e#7 (d ++ 0#12 ++ 1#1 ++ f))
  | .rdidx y d a => some (packF3 y 0x4f#7 d a 0#8)
  | .wridx y d a => some (packF3 y 0x50#7 d a 0#8)
  | .ld y d b k i => some (packF3 y 0x51#7 d (b ++ k) i)
  | .st y d b k i => some (packF3 y 0x52#7 d (b ++ k) i)
  | .ldv y d b k i => some (packF3 y 0x53#7 d (b ++ k) i)
  | .stv y d b k i => some (packF3 y 0x54#7 d (b ++ k) i)
  | .lds y d b k i => some (packF3 y 0x55#7 d (b ++ k) i)
  | .sts y d b k i => some (packF3 y 0x56#7 d (b ++ k) i)
  | .atom y d b k i => some (packF3 y 0x57#7 d (b ++ k) i)
  | .atoms y d b k i => some (packF3 y 0x58#7 d (b ++ k) i)
  | .fence y wack kind scope => some (packF24 y 0x59#7 (0#8 ++ 0#10 ++ wack ++ kind ++ scope))
  | .ldrb y d b k i => some (packF3 y 0x5a#7 (0#4 ++ d) (b ++ k) i)
  | .mkrb y d a b => some (packF3 y 0x5b#7 (0#4 ++ d) a b)
  | .prfm y b k i => some (packF3 y 0x5c#7 0#8 (b ++ k) i)
  | .qclaim y d b => some (packF3 y 0x5d#7 d (b ++ 0#4) 0#8)
  | .qwrite y d b k i => some (packF3 y 0x5e#7 d (b ++ k) i)
  | .qpost y b i => some (packF3 y 0x5f#7 0#8 (b ++ 0#4) i)
  | .awaitf y b i => some (packF3 y 0x60#7 0#8 (b ++ 0#4) i)
  | .awaitfWindow y b i => some (packF3 y 0x60#7 0#8 (b ++ 1#4) i)
  | .relslot y b i => some (packF3 y 0x61#7 0#8 (b ++ 0#4) i)
  | .relslotWindow y b i => some (packF3 y 0x61#7 0#8 (b ++ 1#4) i)
  | .seal y d a => some (packF3 y 0x62#7 d a 0#8)
  | .sealRel y a => some (packF3 y 0x62#7 0#8 a 1#8)
  | .publish y b => some (packF3 y 0x63#7 0#8 (b ++ 0#4) 0#8)
  | .rdprom y d b i => some (packF3 y 0x64#7 d (b ++ 0#4) i)
  | .rdpromWindow y d b i => some (packF3 y 0x64#7 d (b ++ 1#4) i)
  | .mainit y c t w => some (packF24 y 0x65#7 (0#2 ++ 0#1 ++ c ++ t ++ 0#4 ++ w))
  | .mainitAuto y c t h => some (packF24 y 0x65#7 (0#2 ++ 1#1 ++ c ++ t ++ 0#11 ++ h))
  | .mma y t => some (packF24 y 0x66#7 (0#5 ++ t ++ 0#16))
  | .mresolve y t => some (packF24 y 0x67#7 (0#5 ++ t ++ 0#16))
  | .mdrain y t b k i => some (packF3 y 0x68#7 (0#5 ++ t) (b ++ k) i)
  | .mdrainRaw y t b k i => some (packF3 y 0x68#7 (1#1 ++ 0#4 ++ t) (b ++ k) i)
  | .mdrainp y t u => some (packF3 y 0x69#7 (0#5 ++ t) (0#5 ++ u) 0#8)
  | .msave y b t a => some (packF3 y 0x6a#7 (0#1 ++ b ++ t) a 0#8)
  | .msaveWindow y b t a => some (packF3 y 0x6a#7 (1#1 ++ b ++ t) a 0#8)
  | .mload y b t a c => some (packF3 y 0x6b#7 (0#1 ++ b ++ t) a c)
  | .mloadWindow y b t a c => some (packF3 y 0x6b#7 (1#1 ++ b ++ t) a c)
  | .mcmp y d t b => some (packF3 y 0x6c#7 d (0#5 ++ t) b)
  | .mdrop y t => some (packF24 y 0x6d#7 (0#5 ++ t ++ 0#16))
  | .mdropFa y n => some (packF24 y 0x6d#7 (0x08#8 ++ n))
  | .mdropFb y n => some (packF24 y 0x6d#7 (0x10#8 ++ n))
  | .mstat y d t => some (packF3 y 0x6e#7 d (0#5 ++ t) 0#8)
  | .mwait y t n => some (packF3 y 0x6f#7 (0#5 ++ t) 0#8 n)
  | .sysr y d n => some (packF24 y 0x70#7 (d ++ n))
  | .sysw y d n => some (packF24 y 0x71#7 (d ++ n))
  | .ptw y a b => some (packF3 y 0x72#7 0#8 a b)
  | .invlPage y a => some (packF3 y 0x73#7 0#8 a 0#8)
  | .invlAll y a => some (packF3 y 0x73#7 0#8 a 1#8)
  | .replace y a w => some (packF3 y 0x74#7 0#8 a (0#6 ++ w))
  | .dcflush y b k i => some (packF3 y 0x75#7 0#8 (b ++ k) i)
  | .unassignedOpcode w => some w
  | _ => none

/-- The instruction in a word stored as bytes, lowest address first (R7). -/
def decodeBytes (bs : List Byte) : Except DecodeError Instr := decode (BitVec.ofNat 32 (leValue bs))

/-- What the decoder reads from a word numbered as spec/opcode_table.json numbers it. -/
def decodeTableWord (nbits w : Nat) : Option Instr :=
  match decodeBytes (leBytes 4 (w % 2 ^ nbits)) with
  | .ok i => some i
  | .error _ => none

end Sys2Proof
end

