-- ==== Sys2Proof/Machine/Numbers.lean ====
section
/-!
DEFINITION. Number formats, decoding, and the helpers sat and round (04 R89 to R107). A value between decoding and
rounding is exact: a sign, a magnitude and a power of two.
-/
namespace Sys2Proof.Machine

/-- An exact value: (−1)^neg × mag × 2^exp, an infinity or a NaN. -/
inductive Num where
  | fin (neg : Bool) (mag : Nat) (exp : Int)
  | inf (neg : Bool)
  | nan (signalling : Bool)
  deriving DecidableEq, Repr

/-- A target or source format (R90, R94, R97, R102, R106). -/
inductive Format where
  | int (signed : Bool) (bits : Nat)
  | ieee (p : Nat) (emax : Nat) (bits : Nat)
  | b8 (p : Nat) (uns inf : Bool)
  | sint8s
  deriving DecidableEq, Repr

/-- Float flags in the order of FPCTL [8:4]: bit 0 IV, 1 DZ, 2 OF, 3 UF, 4 NX (R79). -/
abbrev FFlags := BitVec 5
def fIV : FFlags := 1#5
def fDZ : FFlags := 2#5
def fOF : FFlags := 4#5
def fUF : FFlags := 8#5
def fNX : FFlags := 16#5

def fp64 : Format := .ieee 53 1023 64
def fp32 : Format := .ieee 24 127 32
def fp16 : Format := .ieee 11 15 16
def bf16 : Format := .ieee 8 127 16
/-- c19 is the format of a narrow panel element: 8 exponent bits and 10 fraction bits (R106). -/
def c19 : Format := .ieee 11 127 19

/-- The format of a TYPE code (R77, R90, R94). -/
def typeFormat : Nat → Format
  | 0 => .int true 32 | 1 => .int false 32 | 2 => .int true 64 | 3 => .int false 64
  | 4 => .int true 16 | 5 => .int false 16 | 6 => .int true 8 | 7 => .int false 8
  | 8 => fp32 | 9 => fp64 | 10 => fp16 | _ => bf16

/-- The format of a CVT or FMT code, none when it is reserved (R97, R102, R214). -/
def codeFormat (c : Nat) : Option Format :=
  if c ≤ 11 then some (typeFormat c)
  else if 0x40 ≤ c && c ≤ 0x77 && c % 2 == 0 then
    some (.b8 (bitsOf c 3 3 + 1) (bitOf c 2) (bitOf c 1))
  else if c == 0x80 then some .sint8s
  else none

def Format.isInt : Format → Bool
  | .int _ _ => true | .sint8s => true | _ => false
def Format.isIeee : Format → Bool
  | .ieee _ _ _ => true | _ => false
/-- A 64-bit format, which takes a register pair (R72). -/
def Format.is64 : Format → Bool
  | .int _ b => b == 64 | .ieee _ _ b => b == 64 | _ => false
/-- Bits that a value of the format occupies. -/
def Format.bits : Format → Nat
  | .int _ b => b | .ieee _ _ b => b | .b8 _ _ _ => 8 | .sint8s => 8
/-- Element size in bytes (R164); c19 never lies in memory. -/
def Format.bytes (f : Format) : Nat := f.bits / 8

/-- The smallest and the largest value of an integer format (R90, R92). -/
def intRange : Format → Int × Int
  | .int true b => (-(2 ^ (b - 1) : Nat), (2 ^ (b - 1) : Nat) - 1)
  | .int false b => (0, (2 ^ b : Nat) - 1)
  | .sint8s => (-127, 127)
  | _ => (0, 0)

/-- sat of R92: the value clamped to the format's range, and whether it was clamped. -/
def sat (x : Int) (f : Format) : Int × Bool :=
  if x < (intRange f).1 then ((intRange f).1, true)
  else if (intRange f).2 < x then ((intRange f).2, true)
  else (x, false)

/-- The low `bits` bits of an integer (R12, R91). -/
def wrapTo (bits : Nat) (x : Int) : Nat := (x % (2 ^ bits : Nat)).toNat

/-- The integer that the low `bits` bits of a pattern denote. -/
def intOf (signed : Bool) (bits : Nat) (v : Nat) : Int :=
  let v := v % 2 ^ bits
  if signed && decide (2 ^ (bits - 1) ≤ v) then (v : Int) - (2 ^ bits : Nat) else v

/-- An exact integer as a value. -/
def Num.ofInt (x : Int) : Num := .fin (decide (x < 0)) x.natAbs 0

/-- Precision and emin of a float format (R94, R99). -/
def Format.prec : Format → Nat
  | .ieee p _ _ => p | .b8 p _ _ => p | _ => 0
def Format.emin : Format → Int
  | .ieee _ emax _ => 1 - (emax : Int)
  | .b8 p uns _ => 1 - ((2 ^ ((if uns then 8 else 7) - p) : Nat) : Int)
  | _ => 0
/-- The code of the largest finite magnitude, without the sign (R94, R98). -/
def Format.maxCode : Format → Nat
  | .ieee p emax _ => 2 * emax * 2 ^ (p - 1) + 2 ^ (p - 1) - 1
  | .b8 _ uns inf => (if uns then 0xFE else 0x7F) - (if inf then 1 else 0)
  | _ => 0

/-- The canonical NaN (R94, R98, R106). -/
def Format.nanCode : Format → Nat
  | .ieee p emax _ => (2 * emax + 1) * 2 ^ (p - 1) + 2 ^ (p - 2)
  | .b8 _ uns _ => if uns then 0xFF else 0x80
  | _ => 0

/-- The code of an infinity; meaningful for formats that have one. -/
def Format.infCode (f : Format) (neg : Bool) : Nat :=
  match f with
  | .ieee p emax b => (2 * emax + 1) * 2 ^ (p - 1) + (if neg then 2 ^ (b - 1) else 0)
  | .b8 _ uns _ => if uns then 0xFE else if neg then 0xFF else 0x7F
  | _ => 0

/-- The sign bit of a float pattern. -/
def Format.signBit (f : Format) (v : Nat) : Bool := bitOf v (f.bits - 1)

/-- Decode the low bits of a pattern (R94, R98, R102, R106); the reserved sint8s code decodes as −128 and is told apart
by its user (R105). -/
def decodeNum (f : Format) (v : Nat) : Num :=
  match f with
  | .int s b => Num.ofInt (intOf s b v)
  | .sint8s => Num.ofInt (intOf true 8 v)
  | .ieee p emax b =>
      let v := v % 2 ^ b
      let neg := bitOf v (b - 1)
      let e := v / 2 ^ (p - 1) % 2 ^ (b - p)
      let m := v % 2 ^ (p - 1)
      if e = 2 * emax + 1 then
        if m = 0 then .inf neg else .nan (!bitOf v (p - 2))
      else if e = 0 then .fin neg m (f.emin - ((p - 1 : Nat) : Int))
      else .fin neg (2 ^ (p - 1) + m) ((e : Int) - 1 + f.emin - ((p - 1 : Nat) : Int))
  | .b8 p uns inf =>
      let v := v % 256
      let neg := !uns && decide (128 ≤ v)
      let m := if uns then v else v % 128
      if v = (if uns then 0xFF else 0x80) then .nan false
      else if inf && m = (if uns then 0xFE else 0x7F) then .inf neg
      else
        let e := m / 2 ^ (p - 1)
        let fr := m % 2 ^ (p - 1)
        if e = 0 then .fin neg fr (f.emin - ((p - 1 : Nat) : Int))
        else .fin neg (2 ^ (p - 1) + fr) ((e : Int) - 1 + f.emin - ((p - 1 : Nat) : Int))

/-- Round the magnitude mag / 2^k to an integer under a mode of R93: the neighbour and whether it differs. `odd` says
that the lower neighbour's code is odd. -/
def roundShift (rm : Nat) (neg : Bool) (mag k : Nat) (odd : Nat → Bool) : Nat × Bool :=
  let lo := mag / 2 ^ k
  let rem := mag % 2 ^ k
  if rem = 0 then (lo, false)
  else
    let up : Bool := match rm with
      | 1 => decide (2 ^ k < 2 * rem) || (decide (2 * rem = 2 ^ k) && odd lo)
      | 2 => false
      | 3 => !neg
      | 4 => neg
      | _ => decide (2 ^ k ≤ 2 * rem)
    (if up then lo + 1 else lo, true)

/-- floor(log2 m) of a positive number. -/
def log2 (m : Nat) : Nat := Nat.log2 m

/-- The neighbour of mag × 2^exp among the integers. -/
def roundToInt (rm : Nat) (neg : Bool) (mag : Nat) (exp : Int) : Int × Bool :=
  let r := if exp < 0 then roundShift rm neg mag (-exp).toNat (fun n => n % 2 == 1)
    else (mag * 2 ^ exp.toNat, false)
  (if neg then -(r.1 : Int) else r.1, r.2)

/-- What R96 and R101 give for a magnitude above the largest finite one. -/
def overflowCode (f : Format) (rm : Nat) (neg sb : Bool) : Nat :=
  let sgn := if neg then 2 ^ (f.bits - 1) else 0
  match f with
  | .ieee _ _ _ =>
      let toInf : Bool := match rm with
        | 1 => true | 2 => false | 3 => !neg | 4 => neg | _ => true
      if toInf then f.infCode neg else f.maxCode + sgn
  | .b8 _ uns inf =>
      if sb then f.maxCode + (if uns then 0 else sgn) else if inf then f.infCode neg else f.nanCode
  | _ => 0

/-- The helper round (R103): the pattern in the format, and the flags. It overflows where R103 says, from a 16-bit integer to fp16 too
(log 142). -/
def round (x : Num) (f : Format) (rm : Nat) (sb ftz : Bool) : Nat × FFlags :=
  match f with
  | .int _ b => roundInt f b
  | .sint8s => roundInt f 8
  | .ieee p _ b => roundFloat p b
  | .b8 p _ _ => roundFloat p 8
where
  roundInt (f : Format) (b : Nat) : Nat × FFlags :=
    match x with
    | .nan _ => (0, fIV)
    | .inf neg => (wrapTo b (if neg then (intRange f).1 else (intRange f).2), fIV)
    | .fin neg m e =>
        let n := roundToInt rm neg m e
        let y := sat n.1 f
        (wrapTo b y.1, if y.2 then fIV else if n.2 then fNX else 0#5)
  roundFloat (p b : Nat) : Nat × FFlags :=
    let uns := match f with | .b8 _ u _ => u | _ => false
    let isB8 := !f.isIeee
    let hasInf := match f with | .b8 _ _ i => i | _ => true
    let sgn (neg : Bool) := if neg then 2 ^ (b - 1) else 0
    match x with
    | .nan s => (f.nanCode, if s then fIV else 0#5)
    | .inf neg =>
        if isB8 && uns && neg then (if sb then (0, fNX) else (f.nanCode, fIV))
        else if hasInf then (f.infCode neg, 0#5)
        else if sb then (f.maxCode + sgn neg, 0#5)
        else (f.nanCode, fIV)
    | .fin neg m e =>
        if m = 0 then (if isB8 then 0 else sgn neg, 0#5)
        else
          let lg : Int := (log2 m : Int) + e
          let q : Int := max lg f.emin - ((p - 1 : Nat) : Int)
          let eb : Nat := (q + ((p - 1 : Nat) : Int) - f.emin).toNat
          let r : Nat × Bool :=
            if e < q then roundShift rm neg m (q - e).toNat (fun n => (eb * 2 ^ (p - 1) + n) % 2 == 1)
            else (m * 2 ^ (e - q).toNat, false)
          let code := eb * 2 ^ (p - 1) + r.1
          if isB8 && uns && neg && r.1 != 0 then (if sb then (0, fNX) else (f.nanCode, fIV))
          else
            let fl := (if r.2 then fNX else 0#5) ||| (if decide (lg < f.emin) && r.2 then fUF else 0#5)
            if f.maxCode < code then (overflowCode f rm neg sb, fl ||| fOF ||| fNX)
            else if ftz && r.1 != 0 && decide (code < 2 ^ (p - 1)) then
              (if isB8 then 0 else sgn neg, fUF ||| fNX)
            else (if isB8 && r.1 == 0 then 0 else code + (if isB8 && uns then 0 else sgn neg), fl)

/-- A subnormal input read as a zero of its sign (R95). -/
def flushInput (f : Format) (ftz : Bool) (x : Num) : Num :=
  match x with
  | .fin neg m e =>
      if ftz && f.isIeee && m != 0 && decide ((log2 m : Int) + e < f.emin) then .fin neg 0 0 else x
  | x => x

/-- The exact integer mantissa at exponent e, for e at most the value's own exponent. -/
def Num.scaled (x : Num) (e : Int) : Int :=
  match x with
  | .fin neg m ex => let v := m * 2 ^ (ex - e).toNat; if neg then -(v : Int) else v
  | _ => 0

/-- The exponent of a finite value. -/
def Num.exponent : Num → Int
  | .fin _ _ e => e
  | _ => 0

def Num.isNan : Num → Bool
  | .nan _ => true | _ => false
def Num.isSnan : Num → Bool
  | .nan s => s | _ => false
def Num.isInf : Num → Bool
  | .inf _ => true | _ => false
def Num.isZero : Num → Bool
  | .fin _ m _ => m == 0 | _ => false
def Num.neg? : Num → Bool
  | .fin n _ _ => n | .inf n => n | .nan _ => false
def Num.negate : Num → Num
  | .fin n m e => .fin (!n) m e | .inf n => .inf (!n) | x => x

/-- An exact sum of mantissas as a value; the sign of an exact zero is given. -/
def Num.ofScaled (v : Int) (e : Int) (zeroNeg : Bool) : Num :=
  if v = 0 then .fin zeroNeg 0 0 else .fin (decide (v < 0)) v.natAbs e

/-- Order of two values that are not NaN: −1, 0 or 1. -/
def Num.cmp (x y : Num) : Int :=
  match x, y with
  | .inf a, .inf b => if a = b then 0 else if a then -1 else 1
  | .inf a, _ => if a then -1 else 1
  | _, .inf b => if b then 1 else -1
  | _, _ =>
      let e := min x.exponent y.exponent
      let a := x.scaled e
      let b := y.scaled e
      if a < b then -1 else if a = b then 0 else 1

end Sys2Proof.Machine
end

