-- ==== Sys2Proof/Machine/Types.lean ====
section
/-!
DEFINITION. The records that State is made of: registers, fragments, teams, groups, launches, requests to memory
(02, 03, 05, 06, 11, 19, 20). All of them are plain data.
-/
namespace Sys2Proof.Machine

/-- The value of a 32-bit register with its shape tag (R62): uniform, affine (base, stride), or one word per lane. -/
inductive Value where
  | u (w : Word)
  | a (base stride : Word)
  | g (lanes : List Word)
  deriving DecidableEq, Repr

/-- A main or operand register: its value, and its poisoned words (R87): bit t is lane t of a general register;
any bit set is the uniform word of the others. -/
structure VReg where
  val : Value
  poison : Mask
  deriving DecidableEq, Repr

/-- The flags of one condition-code register of one lane (R74). -/
structure Flags where
  n : Bool
  z : Bool
  c : Bool
  v : Bool
  deriving DecidableEq, Repr

/-- An entry of the last-result file: a 64-bit result holds its high word too (R60). -/
structure XEntry where
  lo : Value
  hi : Option Value
  deriving DecidableEq, Repr

/-- A join point: the reconvergence address and the join number (R38). -/
structure JoinPoint where
  addr : Addr
  num : Nat
  deriving DecidableEq, Repr

/-- A deferred set of an entry's join stack: the part that it is to run as, its PC, mask and mode register (R38, R43). -/
structure DeferredSet where
  part : Nat
  pc : Addr
  mask : Mask
  mode : BitVec 24
  deriving DecidableEq, Repr

/-- The snapshot of an idempotent region (R49), with the allotment in force (R50). The join stack is its join points and its
deferred sets (R38). -/
structure Snapshot where
  pc : Addr
  mask : Mask
  joins : List JoinPoint
  deferred : List DeferredSet
  mode : BitVec 24
  fpctl : Word
  acquired : Bool
  deriving DecidableEq, Repr

/-- Why a fragment is parked, with what the park waits for. -/
inductive Park where
  /-- not parked -/
  | none
  /-- at the switch marker, until every outstanding operation has returned (R83) -/
  | marker
  /-- with a trap raised at issue or by a fixed-latency instruction, until it is delivered (R85) -/
  | trap
  /-- at an EXIT, BAR, RDV or XSHUF that waits for outstanding operations; it issues again (R239, R240, R295) -/
  | drain
  /-- at barrier n (R240) -/
  | bar (n : Nat)
  /-- at the rendezvous (R241) -/
  | rdv
  /-- at the FUSE of its top join point (R40) -/
  | fuse
  /-- at an XSHUF, with the outstanding operation it fills (R295) -/
  | xshuf (op : Nat)
  /-- at a FORK: the entry address, the descriptor, the place in the cluster's order, and the word (R243) -/
  | fork (entry desc order : Nat) (word : Word)
  /-- at an AWAITF, with its outstanding operation (R317) -/
  | awaitf (op : Nat)
  /-- at a SLEEPUNTIL, with the target of each lane (R247) -/
  | sleep (targets : List Word)
  /-- at an MWAIT (R201) -/
  | mwait (op : Nat)
  /-- at a FENCE: the accesses that must be performed and those that must be acknowledged (R144) -/
  | fence (perform acks : List Nat) (acquire : Bool) (scope : Nat)
  /-- at an ACQUIRE, for rows and words to be evicted (R242) -/
  | acquire
  /-- at a TRET, until every lane of the handler has ended (R357) -/
  | tret
  /-- at a PTW, until its write is performed (R338) -/
  | ptw (req : Nat)
  /-- at an INVL: the writes that must be performed before it, the page (none: all) and the accesses it waits for (R339) -/
  | invl (before : List Nat) (page : Option Nat) (after : List Nat)
  /-- at an instruction whose fetch missed the second stage, until the reply (R392) -/
  | fetch (gpa : Nat)
  deriving DecidableEq, Repr

/-- A fault found and not yet delivered (R85, R86): its place in issue order (the operation, then the rank of its cause
within the instruction, R124), and what its record will hold (R353, R354). `dest` names the destination's words for
REPLACE (R340) and `lines` the virtual lines a retry sends again (R125). -/
structure PendFault where
  op : Nat
  rank : Nat
  cause : Nat
  lanes : Mask
  addr : Nat
  detail : Word
  pte : Nat
  pc : Addr
  deferred : Mask
  held : Bool
  dest : List Nat
  lines : Option (List Nat)
  deriving DecidableEq, Repr

/-- A handler's frame with its fault record (R351, R353, R357). `entered` holds the handler's lanes that have not
exited; `retry`, `skip` and `term` those that executed a TRET. -/
structure Frame where
  id : Nat
  entry : Nat
  part : Nat
  pusher : Nat
  /-- place in issue order at which the handler began: faults before it wait for the handler's return (R86) -/
  since : Nat
  /-- the fragment's consistency region and its accesses under way, as its handler's fragments last left them by exiting -/
  seq : Nat
  hist : List Nat
  release : List Nat
  mask : Mask
  joins : List JoinPoint
  mode : BitVec 24
  cc : List (BitVec 16)
  pcFault : Addr
  pcResume : Addr
  deferred : Mask
  flt : List Word
  pte : Nat
  op : Nat
  held : Bool
  dest : List Nat
  lines : Option (List Nat)
  entered : Mask
  retry : Mask
  skip : Mask
  term : Mask
  deriving DecidableEq, Repr

/-- A fragment: one entry of the split table, or one part of a serial split in it (R38, R43). -/
structure Frag where
  entry : Nat
  part : Nat
  /-- this part holds the entry; it is a deferred set that has not run yet; and the part that pushed it (R43) -/
  holds : Bool
  waits : Bool
  pusher : Nat
  mask : Mask
  pc : Addr
  joins : List JoinPoint
  mode : BitVec 24
  /-- privilege S (R349) -/
  priv : Bool
  x : List XEntry
  region : Option Snapshot
  /-- sequence of its consistency region (R153) -/
  seq : Nat
  frame : Option Nat
  park : Park
  /-- the parked instruction carries the switch marker, whose park follows (R83) -/
  marked : Bool
  /-- the parked instruction is a retry's, whose park lasts until it has returned (R249) -/
  again : Bool
  /-- a retry's lanes, its lines, the address it continues at, and its place in issue order (R249, R86) -/
  only : Option Mask
  lines : Option (List Nat)
  replay : Option Addr
  order : Option Nat
  /-- its accesses not yet known to be performed, in program order (R136) -/
  hist : List Nat
  /-- the accesses that its later writes wait for, from its last release (R144) -/
  release : List Nat
  /-- when it last issued or became ready, and the issue decisions of its quadrant that have passed it over since (R55) -/
  since : Nat
  passed : Nat
  deriving DecidableEq, Repr

/-- The ring slot in which a packet reports: the ring in memory (virtual address) or in a group's window, and the slot
taken; `pipe` is the die's queue and launch it stands for. -/
structure RingSlot where
  vd : Nat
  /-- none: the ring in memory at `addr`; some (group, window): the ring at offset 0 of that window -/
  window : Option (Nat × Nat)
  addr : Nat
  slot : Nat
  deriving DecidableEq, Repr

/-- What an outstanding long-latency operation is. -/
inductive OutKind where
  /-- its result is already known -/
  | calc
  /-- it waits for its requests to memory or to a bank -/
  | memory
  /-- an XSHUF: its source words by lane, and the source lane of each lane, until the exchange (R295) -/
  | xshuf (src : List Nat) (from_ : List Nat)
  /-- an AWAITF of n on a ring (R317) -/
  | awaitf (n : Nat) (ring : RingSlot)
  /-- a command in the matrix unit's queue (R187); one that the unit holds after a trap (R328) -/
  | matrix
  | held
  deriving DecidableEq, Repr

/-- An outstanding long-latency operation (R83, R84). -/
structure Out where
  id : Nat
  /-- place in issue order (R86) -/
  order : Nat
  pc : Addr
  word : Word
  kind : OutKind
  /-- the lanes that the operation was issued for -/
  lanes : Mask
  /-- locked and pending registers: specifiers, 0x100 + b register, 0x200 + condition code -/
  reads : List Nat
  writes : List Nat
  /-- main registers that become G at its return (R68) -/
  willG : List Nat
  /-- destination words, low word first -/
  dst : List Nat
  /-- the result is U -/
  uni : Bool
  /-- the lanes that return a value, with it (all its words) -/
  data : List (Nat × Nat)
  /-- the words that a lane returns, as bits, where it returns some of them (R125) -/
  part : List (Nat × Nat)
  /-- the lanes with destination words, as bits, that are left poisoned (R133) -/
  bad : List (Nat × Nat)
  /-- condition code register written, with the flags of each lane -/
  cc : Option Nat
  ccData : List (Nat × Flags)
  /-- b register written, with the record -/
  brec : Option Nat
  /-- FPCTL flags raised, in positions [8:4] -/
  fp : Word
  deriving DecidableEq, Repr

/-- A team, or a control-core context, which runs as a one-lane team (R29, R52, R63, R69). -/
structure Team where
  tid : Nat
  isCore : Bool
  /-- quadrant of the cluster, and index on it (R153) -/
  quadrant : Nat
  slot : Nat
  f1 : Nat
  e0 : Nat
  /-- non-exited lanes -/
  live : Mask
  v : List VReg
  o : List VReg
  cc : List (BitVec 16)
  b : List (BitVec 128)
  fpctl : Word
  pwcnt : Word
  /-- the counts in force (R47, R69) -/
  vCount : Nat
  gMax : Nat
  oCount : Nat
  acquired : Bool
  joinCtr : Nat
  seqCtr : Nat
  nextOp : Nat
  nextFrame : Nat
  frames : List Frame
  frags : List Frag
  outs : List Out
  faults : List PendFault
  deriving DecidableEq, Repr

/-- A barrier: the teams arrived and the generation (R45). -/
structure Barrier where
  arrived : BitVec 64
  gen : Nat
  deriving DecidableEq, Repr

/-- The rendezvous: teams, control core and queue arrived, and the generation (R241). -/
structure Rdv where
  arrived : BitVec 64
  core : Bool
  queue : Bool
  gen : Nat
  deriving DecidableEq, Repr

/-- A window of the launch (R81, R366). -/
structure Window where
  num : Nat
  offset : Nat
  log2sz : Nat
  extent : Nat
  deriving DecidableEq, Repr

/-- A launch header as it was read (R366). -/
structure Header where
  entry : Nat
  priority : Nat
  persistent : Bool
  cohort : Bool
  spcheck : Bool
  splitmin : Nat
  width : List Nat
  ext : List Nat
  fv : Nat
  fg : Nat
  pv : Nat
  pg : Nat
  o : Nat
  cv : Nat
  co : Nat
  spad : Nat
  args : Nat
  wmask : Nat
  trapvec : Nat
  endva : Nat
  wtab : Nat
  waitAddr : Nat
  waitKind : Nat
  waitVal : Nat
  expect : Nat
  windows : List Window
  deriving DecidableEq, Repr

/-- Where a launch stands. -/
inductive LaunchPhase where
  | waiting | ready | stopping | ended
  deriving DecidableEq, Repr

/-- What of a launch's end is still to be done: its end record, its slot's status, the advance of CPTR (R149, R182, R359). -/
inductive EndStage where
  | record | status | advance
  deriving DecidableEq, Repr

/-- A launch (R366 to R368, R358 to R362). -/
structure Launch where
  id : Nat
  vd : Nat
  die : Nat
  hdr : Header
  phase : LaunchPhase
  /-- group indices (F2 to F5 in one number) not yet admitted -/
  toAdmit : Nat
  trapvec : Nat
  endva : Nat
  /-- values last written to TRAPVEC0 and ENDVA0, unseen until the high half is written (R362) -/
  trapvecLo : Option Word
  endvaLo : Option Word
  advmask : Word
  advisories : List (Nat × Nat)
  traps : Nat
  status : Nat
  deciding : Option (List Word × Nat)
  /-- where its end stands, and the second-stage miss that it waits for: die and 2 MiB unit (R392, R394) -/
  stage : EndStage
  endMiss : Option (Nat × Nat)
  ring : Option RingSlot
  tag : Nat
  queue : QueueId
  /-- its place in the order in which launches left their queues (R369) -/
  order : Nat
  /-- clusters on which it has begun (R131) -/
  begunOn : List Nat
  deriving DecidableEq, Repr

end Sys2Proof.Machine
end

