-- ==== Sys2Proof/Machine/Units.lean ====
section
/-!
DEFINITION. The records of the units that serve a group or the whole package: matrix units, queues, requests to
memory, virtual devices, clusters, regions, dies and links (06, 07, 08, 21 to 24). All of them are plain data.
-/
namespace Sys2Proof.Machine

/-- A half of an accumulator element as its raw image holds it (R108, R109, R111). -/
structure Elem where
  s : BitVec 56
  c : BitVec 56
  nan : Bool
  pinf : Bool
  ninf : Bool
  ovf : Bool
  resolved : Bool
  deriving DecidableEq, Repr

/-- A tile: header fields that are not computed, and 1,024 elements in row order (R191); an empty tile lists none. -/
structure Tile where
  /-- 0 narrow, 1 fp32, 2 fp64, 3 empty -/
  cls : Nat
  /-- 0 single, 1 even half, 2 odd half -/
  role : Nat
  w : Int
  arrivals : Nat
  refused : Bool
  els : List Elem
  deriving DecidableEq, Repr

/-- A FIFO entry: class, exponent bound, and 32 × K element patterns in row order (R173, R189). -/
structure Panel where
  cls : Nat
  eb : Int
  els : List Nat
  deriving DecidableEq, Repr

/-- Where MDRAIN, MSAVE and MLOAD reach: a buffer record, or a window (R329, R330). -/
inductive Target where
  | record (r : BitVec 128)
  | window (w : Window)
  deriving DecidableEq, Repr

/-- A matrix instruction with the register and mode values it read at issue (R187, R199). -/
inductive MOp where
  | init (cls tile : Nat) (w : Int)
  | initAuto (cls tile h : Nat)
  | mma (tile : Nat)
  | resolve (tile : Nat)
  | drain (tile : Nat) (raw : Bool) (win : Window) (e : Nat) (type rnd : Nat) (sb ftz : Bool)
  | drainp (tile dest : Nat)
  | save (tile : Nat) (t : Target) (bw : Nat) (e : Nat)
  | load (tile : Nat) (t : Target) (bw : Nat) (e : Nat) (hdr : Word)
  | cmp (tile : Nat) (threshold : Word)
  | drop (tile : Nat)
  | dropFifo (b : Bool) (n : Nat)
  | stat (tile : Nat)
  | wait (tile n : Nat)
  deriving DecidableEq, Repr

/-- Race metadata of a request: the stamp of its region, the address from which granules are counted (the record's BASE,
or 0 in scratchpad), and the address of the first entry (R152 to R155). -/
structure RaceCheck where
  slot : Nat
  seq : Nat
  base : Nat
  table : Nat
  deriving DecidableEq, Repr

/-- An entry of the command queue. `op` is the context's outstanding operation, `acc` the number of its access, `waits` the
accesses that must be performed before it, `lines` the lines that a retry of an MSAVE sends again. -/
structure Cmd where
  op : Nat
  pc : Addr
  word : Word
  what : MOp
  acc : Nat
  waits : List Nat
  check : Option RaceCheck
  hint : Nat
  lines : Option (List Nat)
  /-- the second-stage misses its access waits for: die and 2 MiB unit; the lines that wait, and those that were denied, each with
  the GPA that missed -/
  miss : List (Nat × Nat)
  missing : List (Nat × Nat)
  deny : List (Nat × Nat)
  /-- the ordered flow of its accesses (R145) -/
  flow : Option Nat
  /-- tokens that it has been given (R421) -/
  paid : Nat
  /-- it only sends again lines of the command held first, for one of several causes (R124, R330) -/
  part : Bool
  deriving DecidableEq, Repr

/-- A matrix unit (R185 to R191, R328). -/
structure MUnit where
  tiles : List Tile
  fa : List Panel
  fb : List Panel
  queue : List Cmd
  /-- commands held after a trap, the faulted one first -/
  held : List Cmd
  deriving DecidableEq, Repr

/-- Which memory an access reaches: HBM by HPA, companion memory, or a group's scratchpad (R132, R127). -/
inductive Space where
  | device
  | tier2
  | scratch (gid : Nat)
  deriving DecidableEq, Repr

/-- A translated line: where it lies, with the key id, the range entry's world, and the dual-backed range it lies in
(publish entry, R387). -/
structure Place where
  space : Space
  /-- address of the line's first byte -/
  addr : Nat
  keyid : Nat
  dual : Option (Nat × Nat)
  deriving DecidableEq, Repr

/-- One lane's part of a request: byte offset from the line's start, the bytes stored or the operands, and which bytes
of the element it covers. -/
structure LaneAccess where
  lane : Nat
  off : Nat
  len : Nat
  data : List Byte
  /-- place of these bytes in the lane's result -/
  at_ : Nat
  deriving DecidableEq, Repr

/-- What a request does at its ordering point. -/
inductive Action where
  /-- a load; narrow elements are sign-extended or zero-extended -/
  | read (signed : Bool)
  | write
  /-- an atomic: operation, TYPE, rounding mode and FTZ at issue (R307) -/
  | atomic (k type rnd : Nat) (ftz : Bool)
  /-- an LDRB (R310) -/
  | readRecord
  /-- write the line back for a DCFLUSH, dropping it from the cluster's read-only cache (R341) -/
  | flush
  /-- a prefetch under HINT (R312) -/
  | prefetch
  /-- a PTW (R338) -/
  | ptw
  /-- claim a slot of the queue descriptor (R160, R314) -/
  | claim
  /-- read the descriptor for a store of a quarter, or of RDY, in slot j for each lane (R315, R316) -/
  | queueStore (quarter : Option Nat)
  /-- set RDY in the slot (R316) -/
  | post
  /-- poll a ring object for AWAITF n (R317); the record or window it lies in gives its base -/
  | await (n : Nat)
  /-- advance RPTR by n (R318) -/
  | release (n : Nat)
  /-- read the ring object, then the status of a slot for each lane (R319) -/
  | promise
  /-- SEAL reads its record (R320), and frees a handle (R321) -/
  | seal
  | sealRelease (h : Nat)
  /-- flip a dual-backed range (R322) -/
  | publish
  deriving DecidableEq, Repr

/-- A request in flight to a home slice or bank (R125, R126). -/
structure Req where
  id : Nat
  /-- the place of its access in program order: its own number, or that of the request it follows (R137, R145) -/
  root : Nat
  /-- what the requests that follow it wait for (R144) -/
  later : List Nat
  gid : Nat
  tid : Nat
  op : Nat
  vd : Nat
  /-- cluster that issued it -/
  cluster : Nat
  action : Action
  place : Place
  /-- virtual address of the line, window number for scratchpad, or the object's address -/
  va : Nat
  lanes : List LaneAccess
  /-- source quadrant or context, and the flow of an ordered flow (R145) -/
  src : Nat
  flow : Option Nat
  scope : Nat
  hint : Nat
  /-- requests that must be performed before it (R144) -/
  waits : List Nat
  /-- performed once for every active lane (R125, R304) -/
  once : Bool
  /-- through a PUB record (R387) -/
  pub : Bool
  check : Option RaceCheck
  /-- it crosses a die: false until the Landing has delivered it (R146) -/
  landed : Bool
  /-- the numbers of the range entries that its line was translated through (R386) -/
  via : List Nat
  deriving DecidableEq, Repr

/-- Who waits for a page request (R392). -/
inductive Waiter where
  /-- a held line of an operation, the accesses to be translated again, and the GPA that missed -/
  | line (r : Req) (gpa : Nat)
  /-- a fragment parked at a fetch or a PTW -/
  | frag (a : AgentId)
  /-- a queue's server -/
  | queue (q : QueueId)
  /-- the head of a matrix unit's queue -/
  | matrix (gid : Nat)
  /-- an access of the companion processor or of a peer package to a device (R441, R446) -/
  | outside (vd : Nat)
  /-- an error to be counted in the ERRCNT of a queue's descriptor (R163), and its QSTATE to be written -/
  | count (q : QueueId)
  | qstate (q : QueueId)
  deriving DecidableEq, Repr

/-- A page request (R392): written to the ring or waiting for room, with its waiters. -/
structure PageReq where
  rid : Nat
  die : Nat
  /-- 2 MiB unit of GPA -/
  unit : Nat
  image : List Byte
  written : Bool
  waiters : List Waiter
  deriving DecidableEq, Repr

/-- A translation cached in a cluster's or a die's TLB (R389). -/
structure Tlb where
  /-- the TLB that holds it: the cluster's number, or 216 and the die's -/
  at_ : Nat
  vd : Nat
  /-- first virtual address and size of the page -/
  va : Nat
  size : Nat
  gpa : Nat
  hpa : Nat
  r : Bool
  w : Bool
  x : Bool
  keyid : Nat
  t2 : Bool
  /-- WORLD of the range entry -/
  world : Bool
  /-- the numbers of the range entries that it was formed through: those of the tables and of the page (R386) -/
  via : List Nat
  deriving DecidableEq, Repr

/-- A first-stage table pointer held by a walk cache after its range translation (R389): the addresses it serves, the level of the
table that it names, the table's GPA and HPA, and the range entries that it was formed through. -/
structure TablePtr where
  /-- 216 and the number of the die whose walk cache holds it -/
  at_ : Nat
  vd : Nat
  va : Nat
  size : Nat
  level : Nat
  table : Nat
  hpa : Nat
  keyid : Nat
  world : Bool
  via : List Nat
  deriving DecidableEq, Repr

/-- A packet that a server has taken (R161, R162). -/
structure Packet where
  slot : Nat
  bits : Nat
  /-- group that issued it, for windows -/
  group : Option Nat
  /-- ring slots taken: its own, and one for each receiver of an MCAST -/
  ring : Option RingSlot
  receivers : List RingSlot
  started : Bool
  /-- it is on the side list and a release of slots has woken it (R184) -/
  woken : Bool
  /-- its own slot's status is written, and CPTR is still to advance (R182) -/
  reported : Bool
  /-- sealed copies of HA and HB -/
  layoutA : Nat
  layoutB : Nat
  /-- elements, chunks or panels done, elements counted in DONE, and FLAGS -/
  progress : Nat
  done : Nat
  flags : Nat
  /-- status code once it is to complete, and the faulting address -/
  code : Option Nat
  fva : Nat
  /-- the header of a LAUNCH once it is read, and the window-table entries that are (R366) -/
  hdr : Option Nat
  wins : List Nat
  deriving DecidableEq, Repr

/-- What the second-stage miss of a queue's server stopped: its look at a rewritten descriptor, at the descriptor or a slot, the start of the packet of a
slot, its run with the virtual address, or the report of its completion. -/
inductive MissFor where
  | rewrite
  | slot
  | start (slot : Nat)
  | run (slot va : Nat)
  | complete (slot : Nat)
  deriving DecidableEq, Repr

/-- A queue context of a server with its bound queue (R158 to R161). -/
structure Queue where
  id : QueueId
  group : Option Nat
  /-- the packet at its head -/
  head : Option Packet
  /-- packets that are started and run beside the head: launches handed over, and parked packets are elsewhere -/
  pending : List Nat
  /-- HALTED, and the wait of a second-stage miss: die and 2 MiB unit, and what it stopped -/
  halted : Bool
  miss : Option (Nat × Nat)
  missFor : MissFor
  /-- QSTATE as the server last wrote it, or is to write it once the descriptor's page request is answered (R158, R392) -/
  qstate : Nat
  /-- the descriptor has been checked since it was bound (R159) -/
  checked : Bool
  /-- the driver has rewritten the halted descriptor while its device was quiesced (R159) -/
  rewritten : Bool
  /-- tokens that its next step has been given (R421) -/
  paid : Nat
  deriving DecidableEq, Repr

/-- A queue as a server first holds it. -/
def Queue.bound (id : QueueId) (group : Option Nat) (checked halted : Bool) : Queue :=
  { id := id, group := group, head := none, pending := [], halted := halted, miss := none, missFor := .slot, qstate := 0, checked := checked,
    rewritten := false, paid := 0 }

/-- A used entry of a seal table (R165). -/
structure Seal where
  index : Nat
  gen : Nat
  live : Bool
  bits : Nat
  deriving DecidableEq, Repr

/-- Mooring states (R434). -/
inductive Moor where
  | running | mooring | moored | waking
  deriving DecidableEq, Repr

/-- A virtual device (20 R371, 21, 23, 24). -/
structure VDev where
  created : Bool
  /-- it is in the time-shared pool -/
  pool : Bool
  sched0 : Word
  sched1 : Word
  qeff : Word
  sched3 : Word
  save : List Word
  quiesce : Bool
  quiesced : Bool
  /-- VDCTL.QUIESCE as the hypervisor last wrote it; `quiesce` holds for it, for mooring and for a temperature hold (log 109) -/
  asked : Bool
  restfail : Bool
  /-- the device's pass, in parts that every weight divides (R370) -/
  pass : Nat
  fsroot0 : Word
  fsroot1 : Word
  ranges : List (BitVec 128)
  rtstage : List Word
  /-- RTCMD.BUSY: the accesses the update waits for -/
  rtBusy : Option (List Nat)
  pubs : List (BitVec 128)
  pubstage : List Word
  pubResult : Nat
  pubBusy : Bool
  prq : List Word
  rpq : List Word
  rqcfg : Word
  prqw : Word
  prqr : Word
  rpqw : Word
  rpqr : Word
  pageReqs : List PageReq
  nextRid : Nat
  /-- the root that is used until the accesses listed are performed, while a write of the root registers waits for them (R383) -/
  oldRoot : Option (Nat × List Nat)
  irq : Bool
  pol : Word
  l2 : Word
  l2Busy : Bool
  rate : Word
  tokens : Nat
  resetDone : Bool
  moor : Moor
  moorReq : Bool
  cls : Nat
  seals : List Seal
  /-- pairing entries: the peer port, the remote package and the remote device (R445) -/
  paired : List (Nat × Nat × Nat)
  deriving DecidableEq, Repr

/-- What a cluster chose when it was asked to pre-empt (R374). -/
inductive PreemptChoice where
  | discard | drain | save
  deriving DecidableEq, Repr

/-- A pre-emption in progress on a cluster: the outgoing device, the effective priority below which its launches go (none:
all of them), the pool quadrants that change device and are to be cleared, the choice and the deadline (R374, R375). -/
structure Preempt where
  vd : Nat
  level : Option Nat
  quads : List Nat
  choice : PreemptChoice
  deadline : Nat
  deriving DecidableEq, Repr

/-- A grant of a pool quadrant of a cluster: the quadrant, the device, when its quantum ends, and that it has ended (R370). -/
structure Grant where
  quad : Nat
  vd : Nat
  until_ : Nat
  spent : Bool
  deriving DecidableEq, Repr

/-- A cluster (23 R415, 20 R374). -/
structure Cluster where
  own : Word
  spb : Word
  /-- the grants of its pool quadrants, at most one of a quadrant -/
  grants : List Grant
  /-- the pre-emptions in progress, at most one of a device -/
  preempts : List Preempt
  deriving DecidableEq, Repr

/-- The owner of quadrant k in an image of CLQOWN: none is the pool (R415). -/
def ownerIn (own : Word) (k : Nat) : Option Nat :=
  if own.getLsbD (8 * k + 7) then none else some (bitsOf own.toNat (8 * k) 6)

/-- The grant of a pool quadrant. -/
def Cluster.grantOf (c : Cluster) (k : Nat) : Option Grant :=
  if (ownerIn c.own k).isSome then none else c.grants.find? (·.quad == k)

/-- The device whose quadrant it is: its owner, or the device that holds its grant (R415). -/
def Cluster.holder (c : Cluster) (k : Nat) : Option Nat := (ownerIn c.own k).orElse fun _ => (c.grantOf k).map (·.vd)

/-- The quadrants of a device on a cluster. -/
def Cluster.quadsOf (c : Cluster) (vd : Nat) : List Nat := (List.range 4).filter fun k => c.holder k == some vd

/-- Clear-pending memory: its first 2 MiB unit, the number of units, the lines that the sweep has reached, and the lines beyond those
that have been written (R412). -/
structure Clearing where
  first : Nat
  count : Nat
  swept : Nat
  written : List Nat
  deriving DecidableEq, Repr

/-- States of a region (R400). -/
inductive RegionState where
  | normal | migrating | degraded | retired
  deriving DecidableEq, Repr

/-- An interleave entry (R400). -/
structure Region where
  num : Nat
  state : RegionState
  world : Bool
  spread : Nat
  nspread : Nat
  hmap : Nat
  nhmap : Nat
  cursor : Nat
  /-- the spare could not hold its lost lines (R406) -/
  short : Bool
  /-- units retired during its move that lie in the spread being moved to (R401, R406) -/
  during : List MemUnit
  deriving DecidableEq, Repr

/-- A spread: the units it excludes, and the units in it that have been retired, whose lines are lost; a moored spread names
its channels (R400, R406, R436). One that follows the loss of banks keeps the places of another, by its number and what it excluded, but
for the lines of those banks, in the order of their loss. -/
structure Spread where
  num : Nat
  seed : Option (Nat × List MemUnit)
  banks : List MemUnit
  excludes : List MemUnit
  lost : List MemUnit
  moored : List Nat
  deriving DecidableEq, Repr

/-- A home map, as the stacks homed on another die than their primary (R17, R400). -/
structure HomeMap where
  num : Nat
  moved : List (Nat × Nat)
  deriving DecidableEq, Repr

/-- A byte-addressed memory: (address, byte) in rising order of address, no byte equal to 0, which is what an unlisted
address reads as (R412, R437 for device memory; log 5 for the others). -/
abbrev Memory := List Host.Cell

/-- The canonical form of a memory. -/
def Memory.wf : Memory → Bool
  | [] => true
  | [c] => c.2 != 0#8
  | c :: d :: m => c.2 != 0#8 && decide (c.1 < d.1) && Memory.wf (d :: m)

/-- A data line as HBM stores it: its bytes before encryption, and the key installation that it was stored under (none: the ZERO mark,
or nothing but zeros) (R396, R412). -/
structure Stored where
  cells : Memory
  key : Option (Nat × Nat)
  deriving DecidableEq, Repr

/-- A line that its home slice caches: its latest tag, the device whose request allocated it, its set in the slice, and the key id it is
held under (R138, R418, R424). -/
structure Cached where
  space : Space
  addr : Nat
  tag : Nat
  vd : Nat
  set : Nat
  keyid : Nat
  deriving DecidableEq, Repr

/-- A line held dirty in L2: its slice, the key id it is held under, and what HBM still stores of it (R398, R404). -/
structure Dirty where
  space : Space
  addr : Nat
  slice : Nat
  keyid : Nat
  old : Stored
  deriving DecidableEq, Repr

/-- Check deltas of one write-back that are not yet acknowledged, with what the line held before and after it (R398, R405). -/
structure Delta where
  stripe : Nat
  line : Nat
  slice : Nat
  old : Stored
  new : Stored
  /-- check homes that have not applied it: 16 for P, 17 for Q -/
  waits : List Nat
  deriving DecidableEq, Repr

/-- A cached line of a cluster's read-only cache (R131). -/
structure RoLine where
  cluster : Nat
  place : Place
  bytes : List Byte
  deriving DecidableEq, Repr

/-- Kinds of dies (R16, R426). -/
inductive DieKind where
  | compute | io | base
  deriving DecidableEq, Repr

/-- What a die holds in fuses: its identity key, of which the public half shows, the certificate chain for it, its kind and its number
(R426). -/
structure Fuses where
  key : BitVec 512
  chain : List Byte
  kind : DieKind
  number : Nat

/-- States of a die (R428). -/
inductive DieState where
  | unattested | attesting | trusted | quarantined | resetting
  deriving DecidableEq, Repr

structure Die where
  state : DieState
  fails : Bool
  resets : Nat
  /-- degrees Celsius of its junction, as last reported -/
  temp : Nat
  /-- groups being saved and slices re-homed before a planned reset (R429) -/
  planned : Bool
  deriving DecidableEq, Repr

/-- One direction of a die-to-die link (R430, R431). -/
structure LinkDir where
  keyed : Bool
  kix : Bool
  oldKey : Bool
  /-- flits sealed under the key in use, those of them that are not acknowledged, and those of the old key that are not -/
  flits : Nat
  unacked : Nat
  oldUnacked : Nat
  /-- when flits failed authentication since the link was last keyed -/
  fails : List Nat
  deriving DecidableEq, Repr

/-- An entry of the world-violation log (R432). -/
structure WlogEntry where
  hpa : Nat
  src : Nat
  kind : Nat
  engine : Bool
  dev : Nat
  deriving DecidableEq, Repr

/-- Where the package stands in its start (R437 to R439). -/
inductive StartPhase where
  | off | running | failed
  deriving DecidableEq, Repr

/-- The command registers whose end the opcode table names no event for: PUBCMD of a device, SVCMD and KEYCMD (log 34). -/
inductive Command where
  | publish (vd : Nat)
  | survival
  | key
  deriving DecidableEq, Repr

/-- What an agent outside the package asks of a device: an access of the companion processor to an address of its aperture, a write of a
peer package with its ordered flow (none: an unordered one), or a peer's append to a queue (R145, R441, R445, R446). -/
inductive HostWhat where
  | aperture (gpa : Nat) (a : HostAccess)
  | peerWrite (gpa : Nat) (data : List Byte) (flow : Option Nat)
  | append (desc : Nat) (words : List Word)
  deriving DecidableEq, Repr

/-- Such an access that is held: for the page request of a die and 2 MiB unit, or because its line waits at its home. -/
structure HostReq where
  vd : Nat
  what : HostWhat
  miss : Option (Nat × Nat)
  deriving DecidableEq, Repr

/-- Registers whose writes have rows of their own. -/
inductive CommandReg where
  | vdl2 | vdpol | vdmoor | vdreset | fsroot (n : Nat) | rtcmd | pubcmd | clqown (cluster : Nat) | clspb (cluster : Nat) | svcmd | keycmd
  | dierst | wake | wlogstat
  deriving DecidableEq, Repr

/-- What the next step is to be (log 1): the model's own list of choices, and the failures that hardware meets. -/
inductive Turn where
  /-- the agent issues its next instruction -/
  | issue (a : AgentId)
  /-- an event row of the opcode table happens -/
  | event (e : Instr)
  /-- n clocks pass -/
  | tick (n : Nat)
  /-- a register word is found uncorrectable (R87) -/
  | wordFailure (gid tid reg lane : Nat)
  /-- both copies of a v register's tag in a saved group's image are found uncorrectable (R378) -/
  | tagsError (gid tid reg : Nat)
  /-- a line of a stripe of device memory fails its code, 18 × stripe + line, where line 16 is P and 17 is Q; fatal: more than one
  symbol (R396) -/
  | lineError (line : Nat) (fatal : Bool)
  /-- a word of a group's scratchpad is found uncorrectable (R134) -/
  | spadError (gid addr : Nat)
  /-- a line of companion memory is marked poisoned by the link (R133) -/
  | tier2Error (addr : Nat)
  /-- a command register's BUSY clears (R387, R407, R423) -/
  | commandDone (c : Command)
  /-- n flits are sealed and sent on a direction of a link; n of its flits are acknowledged at link level, oldest first (R431) -/
  | flits (link dir n : Nat)
  | flitAcks (link dir n : Nat)
  /-- a register is read (R9, R444) -/
  | readRegister (r : HReg) (vd : Nat) (secure : Bool)
  | readCommand (r : CommandReg) (vd : Nat) (secure : Bool)
  /-- a peer package's COPY or MARK writes an address of a device, in an ordered flow or none (R145, R445) -/
  | peerWrite (vd gpa : Nat) (data : List Byte) (flow : Option Nat)
  /-- the n-th held access from outside is tried again -/
  | retryHeld (n : Nat)
  deriving DecidableEq, Repr

/-- Whether a group runs (R29, R375): resident; resident with its issue stopped until its operations have returned;
saved; or discarded. -/
inductive GroupPhase where
  | resident | saving | saved | discarded
  deriving DecidableEq, Repr

/-- The group holds its place on its cluster. -/
def GroupPhase.placed : GroupPhase → Bool
  | .resident | .saving => true
  | .saved | .discarded => false

/-- A group (R30, R377). -/
structure Group where
  gid : Nat
  launch : Nat
  vd : Nat
  /-- F2 to F5 -/
  f2 : Nat
  f3 : Nat
  f4 : Nat
  f5 : Nat
  cluster : Nat
  die0 : Nat
  phase : GroupPhase
  barriers : List Barrier
  rdv : Rdv
  windows : List Window
  spcheck : Bool
  splitmin : Nat
  /-- scratchpad: place of the allocation in the device's share, size, bytes that are not zero, poisoned words with their syndrome, update tags of blocks -/
  base : Nat
  spad : Nat
  mem : List Host.Cell
  memPoison : List (Nat × Word)
  memTags : List (Nat × Nat)
  teams : List Team
  core : Option Team
  munit : MUnit
  /-- queue context of its cluster's engine with the bound queue (R52) -/
  queue : Option QueueId
  /-- packets that the group posted and that have not completed: the queue's descriptor and the slot number (R53, R54) -/
  posted : List (Nat × Nat)
  forkCtr : Nat
  /-- when it began to run, less the time it ran before, for the drain estimate; while it is saved, the time it has run (R374) -/
  since : Nat
  /-- restarted since its last discard with no region ended (R374) -/
  restarted : Bool
  /-- its restore was refused (R379) -/
  refused : Bool
  /-- v registers of its image whose tags are unreadable in both copies: team and register (R378) -/
  untagged : List (Nat × Nat)
  /-- what of a saved group still lies in place: rows and uniform-store words of a quadrant, and scratchpad ranges of the
  device's share (R376) -/
  lazyRows : List (Nat × Nat × Nat)
  lazySpad : List (Nat × Nat)
  deriving DecidableEq, Repr

end Sys2Proof.Machine
end

