-- ==== Sys2Proof/Machine/State.lean ====
section
/-!
DEFINITION. The state of the machine as plain data, the reasons it can stop, and the state after power-on.
-/
namespace Sys2Proof.Machine

/-- Why the machine stops with a fault. -/
inductive Fault where
  /-- Raised by the meaning of an instruction word when the issuing agent that State names is not there, so that
  nothing issues it; no step reaches it, because a step issues only for an agent it has found. Safe. -/
  | noAgent
  deriving DecidableEq, Repr

/-- Why the model has no meaning for an instruction. -/
inductive Refusal where
  /-- Raised by the arm of an instruction that has no meaning yet. Safe: the run ends there. -/
  | notModelled (mnemonic : String)
  deriving DecidableEq, Repr

/-- The registers and tables of memory survival (22). -/
structure Survival where
  /-- regions 0 to usable − 1 are NORMAL under spread 0 and home map 0 and the rest RETIRED, but for those listed -/
  usable : Nat
  regions : List Region
  spreads : List Spread
  hmaps : List HomeMap
  retired : List MemUnit
  /-- lines that fail their code: 18 × stripe + line, and whether beyond correction -/
  weak : List (Nat × Bool)
  /-- stripes locked by the Ferry with the step it is in, stale stripes, stripes whose checks are unreliable -/
  locked : List Nat
  stale : List Nat
  unreliable : List Nat
  deltas : List Delta
  /-- lines being handed to a new home: address, departing and new slice -/
  handoffs : List (Nat × Nat × Nat)
  /-- lost lines that have been written at their places in NSPREAD, 18 × stripe + line (R399, R402) -/
  rebuilt : List Nat
  /-- tag floors: of slice n under n, of bank b of cluster q under 384 + 48q + b (R138) -/
  floors : List (Nat × Nat)
  /-- clear-pending memory (R412) -/
  clearing : List Clearing
  /-- corrected errors of a row, bank or channel -/
  counters : List (MemUnit × Nat)
  /-- when the corrected errors of the last hour were found -/
  hourly : List Nat
  /-- conditions of advisory 4 that hold: DEGRADED regions, short spare, hourly errors -/
  adv4 : List Bool
  thr0 : Word
  thr1 : Word
  thr2 : Word
  scrub : Word
  scrubPos : Nat
  /-- spare free, in lines of 128 bytes -/
  spare : Nat
  args : List Word
  result : Nat
  busy : Bool
  csel : Word
  itsel : Word
  itent1 : Word
  /-- RETRY answers given to a request; channels that raised ALERT, with the clock -/
  retries : List (Nat × Nat)
  alerts : List (Nat × Nat)
  selfRefresh : List Nat
  /-- channels in self-refresh that an access waits for (R436) -/
  called : List Nat
  deriving DecidableEq, Repr

/-- Keys, worlds, trust, power and start (23 R423, 24). -/
structure Trust where
  /-- key ids that hold a key: id, installation number, key words -/
  keys : List (Nat × Nat × List Word)
  keyGen : Nat
  keyargs : List Word
  keydata : List Word
  keyResult : Nat
  keyBusy : Bool
  /-- lines of device memory stored under a key: address, key id and installation number; a line that is not listed
  carries the ZERO mark -/
  sealed : List (Nat × Nat × Nat)
  dies : List Die
  links : List LinkDir
  wlog : List WlogEntry
  wlogLost : Nat
  wlogIndex : Nat
  pwrlim : Nat
  pwrnow : Nat
  level : Nat
  /-- the clusters are held for temperature, with the devices that the Pilot quiesced for it -/
  hold : Bool
  held : List Nat
  phase : StartPhase
  cold : Bool
  coldNext : Bool
  warmFails : Nat
  qmask : Nat
  deriving DecidableEq, Repr

/-- The state of the package. -/
structure State where
  /-- The model's own: the agent that issues, the choices to come, the counter of free values, and the turns that the model
  itself chose (log 1, 2, 3). -/
  cur : AgentId
  agenda : List Turn
  oracle : List Nat
  fresh : Nat
  turns : Nat
  /-- cycle counter (R4) and epoch (R153) -/
  clock : Nat
  epoch : Nat
  /-- device memory by HPA, companion memory, host memory -/
  mem : Memory
  companion : Memory
  host : Memory
  dirty : List Dirty
  /-- the lines that home slices cache -/
  cached : List Cached
  /-- poisoned lines with their syndrome (R133, R451) -/
  poisoned : List (Space × Nat × Word)
  roc : List RoLine
  tlb : List Tlb
  /-- table pointers that walk caches hold (R389) -/
  walkCache : List TablePtr
  reqs : List Req
  nextReq : Nat
  /-- performed writes not yet acknowledged (R144) -/
  acks : List Nat
  /-- last region sequence of slots that no team holds now (R153) -/
  seqs : List (Nat × Nat)
  launches : List Launch
  groups : List Group
  queues : List Queue
  /-- side lists: cluster, queue and packet, in order (R184) -/
  side : List (Nat × QueueId × Packet)
  vds : List VDev
  clusters : List Cluster
  nextLaunch : Nat
  nextGroup : Nat
  lastServed : Nat
  sv : Survival
  trust : Trust
  /-- the groups of the launch whose group ended last, as their registers and tiles stood (R348); and what the last read of
  a register returned (R9, R410, R432, R444) -/
  past : List Group
  readData : Word
  /-- accesses from outside that are held (R392, R441); and what the companion's last access was answered: the bytes that it found, or
  none for an error response -/
  outside : List HostReq
  hostReply : Option (List Byte)
  deriving DecidableEq, Repr

/-- A virtual device that is not created, with the Reset values of its registers. -/
def VDev.reset : VDev :=
  { created := false, pool := false, sched0 := 0, sched1 := 0, qeff := 0, sched3 := 0, save := [0, 0, 0], quiesce := false,
    quiesced := false, asked := false, restfail := false, pass := 0, fsroot0 := 0, fsroot1 := 0, ranges := List.replicate 48 0,
    rtstage := [0, 0, 0, 0], rtBusy := none, pubs := List.replicate 8 0, pubstage := [0, 0, 0, 0], pubResult := 0, pubBusy := false,
    prq := [0, 0], rpq := [0, 0], rqcfg := 0, prqw := 0, prqr := 0, rpqw := 0, rpqr := 0, pageReqs := [], nextRid := 0, oldRoot := none,
    irq := false, pol := 4, l2 := 0x1200, l2Busy := false, rate := 0, tokens := 0, resetDone := true,
    moor := .running, moorReq := false, cls := 0, seals := [], paired := [] }

/-- A cluster with the Reset values of its partition registers (R415). -/
def Cluster.reset : Cluster :=
  { own := 0x80808080, spb := 0x30C30C, grants := [], preempts := [] }

def Survival.reset : Survival :=
  { usable := 0, regions := [], spreads := [], hmaps := [], retired := [], weak := [], locked := [], stale := [],
    unreliable := [], deltas := [], handoffs := [], rebuilt := [],
    floors := [], clearing := [], counters := [], hourly := [],
    adv4 := [false, false, false], thr0 := 0x01000008, thr1 := 0x01181000, thr2 := 1024, scrub := 0x1018, scrubPos := 0,
    spare := 256 * 2097152, args := [0, 0], result := 0, busy := false, csel := 0, itsel := 0, itent1 := 0,
    retries := [], alerts := [], selfRefresh := [], called := [] }

def Die.reset : Die := { state := .unattested, fails := false, resets := 0, temp := 0, planned := false }
def LinkDir.reset : LinkDir := { keyed := false, kix := false, oldKey := false, flits := 0, unacked := 0, oldUnacked := 0, fails := [] }

def Trust.reset : Trust :=
  { keys := [], keyGen := 0, keyargs := [0, 0], keydata := List.replicate 16 0, keyResult := 0, keyBusy := false, sealed := [],
    dies := List.replicate 16 Die.reset, links := List.replicate 60 LinkDir.reset, wlog := [], wlogLost := 0,
    wlogIndex := 0, pwrlim := 3200, pwrnow := 0, level := 0, hold := false, held := [], phase := .off, cold := false,
    coldNext := false, warmFails := 0, qmask := 0 }

/-- The package at power-on, every register at its Reset value (R10); its first step with nothing else asked for is the
cold start (log 4, 6). -/
def State.reset : State :=
  { cur := ⟨0, 0, 0, 0⟩, agenda := [], oracle := [], fresh := 0, turns := 0, clock := 0, epoch := 0, mem := [],
    companion := [], host := [], dirty := [], cached := [], poisoned := [], roc := [], tlb := [], walkCache := [], reqs := [], nextReq := 0,
    acks := [], seqs := [], launches := [], groups := [], queues := [], side := [], vds := List.replicate 64 VDev.reset,
    clusters := List.replicate 216 Cluster.reset, nextLaunch := 0, nextGroup := 0, lastServed := 0,
    sv := Survival.reset, trust := Trust.reset, past := [], readData := 0, outside := [], hostReply := none }

end Sys2Proof.Machine
end

