-- ==== Sys2Proof/Machine/Ops.lean ====
section
/-!
DEFINITION. The named operations over memory and over the records of State: bytes and values in memory, lookups and
updates by name, the instruction boundary of a fragment, raising a trap, taking it, and the end of a handler's frame
(05, 11 R249, 19 R351 to R357).
-/
namespace Sys2Proof.Machine

/-- The companion processor makes the access; else it is of peer packages, which count as one agent (R135; log 133). -/
def HostWhat.companion : HostWhat → Bool
  | .aperture .. => true
  | _ => false

/-! ### Memory -/

/-- The byte at an address; an unlisted byte reads 0. -/
def Memory.get : Memory → Nat → Byte
  | [], _ => 0#8
  | c :: m, a => if a = c.1 then c.2 else Memory.get m a

/-- Store one byte, keeping the canonical form. -/
def Memory.set : Memory → Nat → Byte → Memory
  | [], a, v => if v = 0#8 then [] else [(a, v)]
  | c :: m, a, v =>
    if a < c.1 then (if v = 0#8 then c :: m else (a, v) :: c :: m)
    else if a = c.1 then (if v = 0#8 then m else (a, v) :: m)
    else c :: Memory.set m a v

/-- Store bytes at rising addresses. -/
def Memory.write : Memory → Nat → List Byte → Memory
  | m, _, [] => m
  | m, a, b :: bs => Memory.write (m.set a b) (a + 1) bs

/-- The n bytes from an address on. -/
def Memory.read (m : Memory) (a n : Nat) : List Byte := (List.range n).map fun k => m.get (a + k)

/-- The little-endian value of n bytes (R7). -/
def Memory.value (m : Memory) (a n : Nat) : Nat := leValue (m.read a n)

/-- Every byte of [a, a + n) becomes 0. -/
def Memory.clear (m : Memory) (a n : Nat) : Memory := m.filter fun c => !(decide (a ≤ c.1) && decide (c.1 < a + n))

/-! ### Associations -/

/-- The value under a key, or a default. -/
def assocGet {α β : Type} [DecidableEq α] : List (α × β) → α → β → β
  | [], _, d => d
  | (k, v) :: l, a, d => if a = k then v else assocGet l a d

/-- Put a value under a key, in the key's place or at the end. -/
def assocSet {α β : Type} [DecidableEq α] : List (α × β) → α → β → List (α × β)
  | [], a, b => [(a, b)]
  | (k, v) :: l, a, b => if a = k then (a, b) :: l else (k, v) :: assocSet l a b

/-- Remove a key. -/
def assocDel {α β : Type} [DecidableEq α] (l : List (α × β)) (a : α) : List (α × β) := l.filter fun p => p.1 ≠ a

/-! ### Sorting -/

/-- Put a member before the first one that it does not follow. -/
def insertBy {α : Type} (le : α → α → Bool) (a : α) : List α → List α
  | [] => [a]
  | b :: l => if le a b then a :: b :: l else b :: insertBy le a l

/-- Sort a list; equals keep their order. -/
def sortBy {α : Type} (le : α → α → Bool) (l : List α) : List α := l.foldr (insertBy le) []

/-! ### Lookups and updates -/

def State.group? (s : State) (gid : Nat) : Option Group := s.groups.find? fun g => g.gid == gid
def State.launch? (s : State) (id : Nat) : Option Launch := s.launches.find? fun l => l.id == id
def State.vd (s : State) (n : Nat) : VDev := (s.vds[n]?).getD VDev.reset
def State.cluster (s : State) (n : Nat) : Cluster := (s.clusters[n]?).getD Cluster.reset
def State.die (s : State) (n : Nat) : Die := (s.trust.dies[n]?).getD Die.reset
def State.queue? (s : State) (q : QueueId) : Option Queue := s.queues.find? fun x => x.id == q

/-- Replace the group of the same number. -/
def State.setGroup (s : State) (g : Group) : State :=
  { s with groups := s.groups.map fun h => if h.gid = g.gid then g else h }
def State.modLaunch (s : State) (id : Nat) (k : Launch → Launch) : State :=
  { s with launches := s.launches.map fun l => if l.id = id then k l else l }
def State.setLaunch (s : State) (l : Launch) : State :=
  { s with launches := s.launches.map fun k => if k.id = l.id then l else k }
def State.setVd (s : State) (n : Nat) (v : VDev) : State := { s with vds := s.vds.set n v }
def State.setCluster (s : State) (n : Nat) (c : Cluster) : State := { s with clusters := s.clusters.set n c }
def State.setDie (s : State) (n : Nat) (d : Die) : State :=
  { s with trust := { s.trust with dies := s.trust.dies.set n d } }
def State.setQueue (s : State) (q : Queue) : State :=
  { s with queues := s.queues.map fun x => if x.id = q.id then q else x }

/-- The team of a number, or the control-core context. -/
def Group.team? (g : Group) (tid : Nat) : Option Team :=
  if tid = coreTid then g.core else g.teams.find? fun t => t.tid == tid
/-- Replace the team of the same number, or the control-core context. -/
def Group.setTeam (g : Group) (t : Team) : Group :=
  if t.tid = coreTid then { g with core := some t }
  else { g with teams := g.teams.map fun u => if u.tid = t.tid then t else u }
/-- All the teams of a group, with its control-core context. -/
def Group.allTeams (g : Group) : List Team := g.teams ++ g.core.toList

def Team.frag? (t : Team) (ent part : Nat) : Option Frag :=
  t.frags.find? fun f => f.entry == ent && f.part == part
/-- Replace the fragment of the same entry and part. -/
def Team.setFrag (t : Team) (f : Frag) : Team :=
  { t with frags := t.frags.map fun e => if e.entry = f.entry ∧ e.part = f.part then f else e }
def Team.frame? (t : Team) (id : Nat) : Option Frame := t.frames.find? fun r => r.id == id
def Team.setFrame (t : Team) (r : Frame) : Team :=
  { t with frames := t.frames.map fun e => if e.id = r.id then r else e }
/-- The launch of a group. -/
def State.launchOf (s : State) (g : Group) : Option Launch := s.launch? g.launch

/-- The fragment that is issuing, with its team and group, and what an instruction reads of the rest of the package. -/
structure Here where
  group : Group
  team : Team
  frag : Frag
  clock : Nat
  fresh : Nat
  deriving DecidableEq, Repr

/-- The issuing fragment that `cur` names. -/
def State.here (s : State) : Option Here :=
  match s.group? s.cur.gid with
  | none => none
  | some g =>
    match g.team? s.cur.tid with
    | none => none
    | some t =>
      match t.frag? s.cur.ent s.cur.part with
      | none => none
      | some f => some { group := g, team := t, frag := f, clock := s.clock, fresh := s.fresh }

/-- Put the issuing fragment, its team and its group back. -/
def State.put (s : State) (h : Here) : State :=
  { s.setGroup (h.group.setTeam (h.team.setFrag h.frag)) with fresh := h.fresh }

/-- An instruction that acts on its own fragment, team and group alone. -/
def issue (s : State) (k : Here → Here) : Host.Outcome State Fault Refusal :=
  match s.here with
  | none => .fault .noAgent
  | some h => .next (s.put (k h))

/-- An instruction that acts on more of the package. -/
def issueS (s : State) (k : Here → State) : Host.Outcome State Fault Refusal :=
  match s.here with
  | none => .fault .noAgent
  | some h => .next (k h)

/-! ### The instruction boundary -/

/-- The address at which the fragment goes on after the instruction it issues: the next one, or PC_resume when the
instruction is one that a retry performs again (R85, R249). -/
def Frag.nextPc (f : Frag) : Addr := f.replay.getD (f.pc + 4)

/-- The fragment's idempotent region ends (R49), so its group may be discarded again (R374). -/
def Here.endIdem (h : Here) : Here :=
  { h with group := { h.group with restarted := false }, frag := { h.frag with region := none } }

/-- The lanes an instruction acts on before the guard: the mask, less the lanes a retry leaves out. -/
def Frag.acting (f : Frag) : Mask := f.mask &&& f.only.getD f.mask

/-- End an instruction: the pc moves on, a retry's restriction ends, and the switch marker or the retry parks the
fragment (R83, R249); the marker empties the last-result file (R61). -/
def Frag.finish (y : Bool) (f : Frag) : Frag :=
  { f with
    pc := f.nextPc, only := none, lines := none, replay := none, order := none,
    park := if f.park = .none then (if y then .marker else if f.replay.isSome then .drain else .none) else f.park,
    marked := y && f.park != .none,
    again := !y && f.park != .none && f.replay.isSome,
    x := if y then [] else f.x }

/-- A trap to raise: the cause, its lanes (none: the active ones), the address and detail of R354, the lanes deferred
(R356), and the destination words of the instruction (R340). -/
structure Trap where
  cause : Nat
  lanes : Option Mask := none
  addr : Nat := 0
  detail : Word := 0#32
  pte : Nat := 0
  deferred : Mask := 0#1024
  dest : List Nat := []
  rank : Nat := 0
  lines : Option (List Nat) := none
  deriving DecidableEq, Repr

/-- Cause codes (R354). -/
def cILLOP : Nat := 0x01
def cILLREG : Nat := 0x02
def cREGBOUND : Nat := 0x03
def cREGCAP : Nat := 0x04
def cHAZARD : Nat := 0x05
def cPOISONREG : Nat := 0x06
def cNOPARTNER : Nat := 0x07
def cBOUNDS : Nat := 0x10
def cALIGN : Nat := 0x11
def cPERM : Nat := 0x12
def cNOTPRESENT : Nat := 0x13
def cS2DENY : Nat := 0x14
def cUE : Nat := 0x15
def cRACE : Nat := 0x16
def cSCOPE : Nat := 0x17
def cDIVZ : Nat := 0x20
def cFPEXC : Nat := 0x21
def cUNRESOLVED : Nat := 0x22
def cWINDOW : Nat := 0x23
def cPROMISE : Nat := 0x30
def cSWTRAP : Nat := 0x40
def cADVISE : Nat := 0x41

/-- Faults stand in issue order, then in the order of their causes within one instruction (R86, R124). -/
def insertFault : List PendFault → PendFault → List PendFault
  | [], f => [f]
  | g :: l, f => if f.op < g.op ∨ (f.op = g.op ∧ f.rank < g.rank) then f :: g :: l else g :: insertFault l f

/-- Raise a trap for an instruction at issue, or for one of fixed latency: it is recorded with PC_resume at the next
instruction, and the fragment parks until it is delivered (R85). -/
def Here.raise (h : Here) (act : Mask) (t : Trap) : Here :=
  let f : PendFault :=
    { op := h.frag.order.getD h.team.nextOp, rank := t.rank, cause := t.cause, lanes := t.lanes.getD (if act = 0#1024 then h.frag.acting else act),
      addr := t.addr, detail := t.detail, pte := t.pte, pc := h.frag.pc, deferred := t.deferred, held := false,
      dest := t.dest, lines := none }
  { h with
    team := { h.team with nextOp := h.team.nextOp + 1, faults := insertFault h.team.faults f },
    frag := { h.frag.finish false with park := .trap } }

/-! ### Taking a trap -/

/-- The operations outstanding for a fragment: those of its lanes (R83), less those that the matrix unit holds (R328). -/
def Team.outsOf (t : Team) (f : Frag) : List Out := t.outs.filter fun o => o.lanes &&& f.mask != 0#1024 && decide (o.kind ≠ .held)
/-- The place in issue order from which a fragment's own faults count: in a handler, those of the handler. -/
def Team.faultBase (t : Team) (f : Frag) : Nat := ((f.frame.bind t.frame?).map (·.since)).getD 0
/-- The faults that wait for a fragment, in order (R86), with those that only left some of its lanes deferred; those older
than its handler wait for the handler's return. -/
def Team.faultsOf (t : Team) (f : Frag) : List PendFault :=
  t.faults.filter fun p => (p.lanes ||| p.deferred) &&& f.mask != 0#1024 && decide (t.faultBase f ≤ p.op)

/-- The slot of a team or of a control-core context (R153). -/
def Group.slotOf (g : Group) (t : Team) : Nat :=
  if t.isCore then
    let n := 4 * g.cluster + t.quadrant
    (864 + n / 64) * 64 + n % 64
  else (4 * g.cluster + t.quadrant) * 64 + t.slot

/-- The fault record FLT0 to FLT7 (R353, R354). -/
def fltWords (slot e0 : Nat) (p : PendFault) (lanes : Mask) (more : Bool) : List Word :=
  [ BitVec.ofNat 32 (p.cause + (if more then 256 else 0) + (if p.held then 512 else 0)),
    BitVec.ofNat 32 p.pc.toNat,
    BitVec.ofNat 32 (p.pc.toNat / 2 ^ 32 * 65536 + slot),
    BitVec.ofNat 32 (lanes.lowest e0),
    BitVec.ofNat 32 p.addr,
    BitVec.ofNat 32 (p.addr / 2 ^ 32),
    lanes.summary,
    p.detail ]

/-- Stop a launch: its status and deciding trap are recorded, and every fragment of its groups stops (R250, R358). -/
def State.stopLaunch (s : State) (id status : Nat) (deciding : Option (List Word × Nat)) : State :=
  match s.launch? id with
  | none => s
  | some l =>
    if l.phase = .stopping ∨ l.phase = .ended then s
    else
      let s := s.setLaunch { l with phase := .stopping, status := status, deciding := deciding, advisories := [] }
      { s with
        groups := s.groups.map fun g =>
          if g.launch = id then
            let stop (t : Team) : Team := { t with frags := [], frames := [], faults := [], live := 0#1024 }
            { g with teams := g.teams.map stop, core := g.core.map stop,
                     munit := { g.munit with queue := [], held := [] } }
          else g }

/-- The trap count of a launch, saturating (R359). -/
def Launch.countTrap (l : Launch) : Launch := { l with traps := min (l.traps + 1) (2 ^ 32 - 1) }

/-- The faults of a team once fault `p` has been delivered to fragment `f`: its lanes of other fragments stay. -/
def Team.faultsWithout (t : Team) (f : Frag) (p : PendFault) : List PendFault :=
  let left := { p with lanes := p.lanes &&& ~~~f.mask, deferred := p.deferred &&& ~~~f.mask }
  t.faults.flatMap fun q =>
    if q ≠ p then [q] else if p.cause = cADVISE ∨ left.lanes ||| left.deferred = 0#1024 then [] else [left]

/-- A fragment that performs an instruction again for some lanes, or for its deferred lanes, parks until it has returned
and goes on where it stands (R249, R356). `lines` are those that a retry sends again. -/
def Frag.perform (f : Frag) (pc : Addr) (op : Nat) (lanes : Mask) (lines : Option (List Nat)) : Frag :=
  { f with pc := pc, park := .drain, marked := false, again := false, only := some lanes, lines := lines, replay := some f.pc, order := some op }

/-- Take a trap: deliver fault `p` to fragment `f` of team `t` (R351, R353). Without a handler, or at S, the launch
ends; otherwise the fragment's state is kept in a frame, the record is written, and the fragment goes to TRAPVEC at S
with the trap's lanes, mode 0, an empty join stack and an empty last-result file. A fault whose lanes here are only deferred
ones takes no trap: the instruction is performed for them (R356). -/
def State.deliver (s : State) (g : Group) (t : Team) (f : Frag) (p : PendFault) : State :=
  match s.launchOf g with
  | none => s
  | some l =>
    let lanes := if p.cause = cADVISE then f.mask else p.lanes &&& f.mask
    let rest := t.faultsWithout f p
    let more := rest.any fun q => q.lanes &&& f.mask != 0#1024 && decide (t.faultBase f ≤ q.op)
    let flt := fltWords (g.slotOf t) t.e0 p lanes more
    if lanes = 0#1024 then s.setGroup (g.setTeam (({ t with faults := rest } : Team).setFrag (f.perform p.pc p.op (p.deferred &&& f.mask) none)))
    else if f.priv then (s.setLaunch l.countTrap).stopLaunch l.id 3 (some (flt, f.pc.toNat))
    else if l.trapvec = 0 then
      if p.cause = cADVISE then s
      else (s.setLaunch l.countTrap).stopLaunch l.id 2 (some (flt, f.pc.toNat))
    else
      let frame : Frame :=
        { id := t.nextFrame, entry := f.entry, part := f.part, pusher := f.pusher, since := t.nextOp, seq := f.seq, hist := f.hist, release := f.release, mask := f.mask, joins := f.joins, mode := f.mode, cc := t.cc,
          pcFault := p.pc, pcResume := f.pc, deferred := p.deferred &&& f.mask, flt := flt, pte := p.pte, op := p.op,
          held := p.held, dest := p.dest, lines := p.lines, entered := lanes, retry := 0#1024, skip := 0#1024,
          term := 0#1024 }
      let f' : Frag :=
        { f with mask := lanes, joins := [], mode := 0#24, priv := true, x := [], region := none,
                 frame := some t.nextFrame, pc := BitVec.ofNat 48 l.trapvec, park := .none, marked := false, again := false,
                 only := none, lines := none, replay := none, order := none, since := s.clock }
      let t' := ({ t with nextFrame := t.nextFrame + 1, frames := t.frames ++ [frame], faults := rest } : Team).setFrag f'
      (s.setLaunch l.countTrap).setGroup ({ g with restarted := false }.setTeam t')

/-! ### The end of a handler's frame -/

/-- Restore the condition codes of the lanes that a frame saved (R355). -/
def restoreCc (now saved : List (BitVec 16)) (lanes : Mask) : List (BitVec 16) :=
  (now.zip saved).zipIdx.map fun p => if lanes.has p.2 then p.1.2 else p.1.1

/-- End a frame whose lanes have all executed TRET or exited, in a way other than terminate (R249, R355 to R357): the
handler's fragments become the interrupted fragment again. ADVISE has no faulting instruction: the fragment goes on at
PC_resume (R250). Otherwise the instruction at PC_fault is performed once more for the
lanes that chose retry and for the deferred lanes; without any, the fragment goes on at PC_resume. Its consistency region is that of
the first of the handler's fragments, or the one that the last of them ended with when every one has exited (log 113). -/
def Team.endFrame (clock : Nat) (t : Team) (r : Frame) : Team :=
  let lanes := r.mask &&& t.live
  let again := if bitsOf ((r.flt.headD 0#32).toNat) 0 8 = cADVISE then 0#1024 else (r.retry ||| r.deferred) &&& lanes
  let gone (f : Frag) : Bool := f.frame == some r.id
  let hist := (r.hist ++ (t.frags.filter gone).flatMap (·.hist)).eraseDups
  let rel := (r.release ++ (t.frags.filter gone).flatMap (·.release)).eraseDups
  let seq := ((t.frags.find? gone).map (·.seq)).getD r.seq
  let held := (t.frags.any fun f => gone f && f.holds) || t.frags.all fun f => gone f || f.entry != r.entry || !f.holds
  let back : Frag :=
    { entry := r.entry, part := r.part, holds := held, waits := false, pusher := r.pusher, mask := lanes, pc := r.pcResume, joins := r.joins, mode := r.mode,
      priv := false, x := [], region := none, seq := seq, frame := none, park := .drain, marked := false, again := false,
      only := none, lines := none, replay := none, order := none, hist := hist, release := rel, since := clock, passed := 0 }
  let back := if again = 0#1024 ∨ r.held then back
    else back.perform r.pcFault r.op again (if r.deferred ≠ 0#1024 then none else r.lines)
  { t with
    cc := restoreCc t.cc r.cc r.mask
    frames := t.frames.filter fun q => q.id != r.id
    frags := (t.frags.filter fun f => !gone f) ++ (if lanes = 0#1024 then [] else [back]) }

end Sys2Proof.Machine
end

