-- ==== Sys2Proof/Machine/Operands.lean ====
section
/-!
DEFINITION. Operand specifiers, shapes, reads and writes of registers, the last-result file, and the register checks in
their order (03 R57 to R73, R81, R84, R87, R88; 09 R205).
-/
namespace Sys2Proof.Machine

/-! ### The mode register (R77) -/

def modeType (m : BitVec 24) : Nat := bitsOf m.toNat 0 4
def modeGcc (m : BitVec 24) : Nat := bitsOf m.toNat 4 2
def modeGcond (m : BitVec 24) : Nat := bitsOf m.toNat 6 4
def modeCcw (m : BitVec 24) : Nat := bitsOf m.toNat 10 3
def modeRnd (m : BitVec 24) : Nat := bitsOf m.toNat 13 3
def modeSat (m : BitVec 24) : Bool := m.getLsbD 16
def modeFtz (m : BitVec 24) : Bool := m.getLsbD 17
def modeHint (m : BitVec 24) : Nat := bitsOf m.toNat 18 2
def modeScope (m : BitVec 24) : Nat := bitsOf m.toNat 20 3

def Here.type (h : Here) : Nat := modeType h.frag.mode
def Here.format (h : Here) : Format := typeFormat h.type
def Here.sat (h : Here) : Bool := modeSat h.frag.mode
def Here.ftz (h : Here) : Bool := modeFtz h.frag.mode
/-- TYPE is a 64-bit type, so register operands are pairs (R72). -/
def Here.is64 (h : Here) : Bool := h.format.is64
/-- The words of an operand that acts in TYPE. -/
def Here.words (h : Here) : Nat := if h.is64 then 2 else 1
/-- The rounding mode in force (R77, R79, R93). -/
def Here.rnd (h : Here) : Nat :=
  if modeRnd h.frag.mode = 0 then bitsOf h.team.fpctl.toNat 0 3 else modeRnd h.frag.mode

/-! ### Condition codes and the guard (R74, R75) -/

def Flags.zero : Flags := { n := false, z := false, c := false, v := false }
/-- A lane's four condition codes as 16 bits, register k in bits [4k + 3 : 4k] as N, Z, C, V from bit 3 down. -/
def ccGet (w : BitVec 16) (k : Nat) : Flags :=
  { n := w.getLsbD (4 * k + 3), z := w.getLsbD (4 * k + 2), c := w.getLsbD (4 * k + 1), v := w.getLsbD (4 * k) }
def Flags.bits (f : Flags) : Nat :=
  (if f.n then 8 else 0) + (if f.z then 4 else 0) + (if f.c then 2 else 0) + (if f.v then 1 else 0)
def ccSet (w : BitVec 16) (k : Nat) (f : Flags) : BitVec 16 :=
  (w &&& ~~~(BitVec.ofNat 16 (15 * 2 ^ (4 * k)))) ||| BitVec.ofNat 16 (f.bits * 2 ^ (4 * k))

/-- A guard condition on a condition code (R75). -/
def condPasses (code : Nat) (f : Flags) : Bool :=
  match code with
  | 0 => true
  | 1 => f.z
  | 2 => !f.z
  | 3 => f.n != f.v
  | 4 => f.n == f.v
  | 5 => !f.z && (f.n == f.v)
  | 6 => f.z || (f.n != f.v)
  | 7 => !f.c
  | 8 => f.c
  | 9 => f.c && !f.z
  | 10 => !f.c || f.z
  | 11 => f.n
  | 12 => !f.n
  | 13 => f.v
  | 14 => !f.v
  | _ => false

/-- The flags of condition-code register `k` in lane `t`. -/
def Team.ccOf (tm : Team) (k t : Nat) : Flags := ccGet ((tm.cc[t]?).getD 0#16) k

/-- The lanes that pass the guard (R75, R76): the active lanes. -/
def Here.active (h : Here) : Mask :=
  if modeGcond h.frag.mode = 0 then h.frag.acting
  else Mask.ofPred h.team.e0 fun t =>
    h.frag.acting.has t && condPasses (modeGcond h.frag.mode) (h.team.ccOf (modeGcc h.frag.mode) t)

/-! ### Values and shapes -/

/-- The word of lane `t` (R62). -/
def Value.lane (v : Value) (t : Nat) : Word :=
  match v with
  | .u w => w
  | .a b s => b + s * BitVec.ofNat 32 t
  | .g ws => (ws[t]?).getD 0#32

/-- Shape tags (R62). -/
inductive Shape where
  | u | a | g
  deriving DecidableEq, Repr

def Value.shape : Value → Shape
  | .u _ => .u
  | .a _ _ => .a
  | .g _ => .g

def Shape.code : Shape → Nat
  | .u => 0 | .a => 1 | .g => 2

/-- A register that holds zero, uniform. -/
def VReg.zero : VReg := { val := .u 0#32, poison := 0#1024 }

/-- The register of a v or o specifier. -/
def Team.reg (tm : Team) (r : Nat) : VReg :=
  if r < 0xC0 then (tm.v[r]?).getD VReg.zero else (tm.o[r - 0xC0]?).getD VReg.zero

/-- Replace the register of a v or o specifier. -/
def Team.setReg (tm : Team) (r : Nat) (x : VReg) : Team :=
  if r < 0xC0 then { tm with v := tm.v.set r x } else { tm with o := tm.o.set (r - 0xC0) x }

/-- Lane `t` of a register word is poisoned (R87). -/
def VReg.poisoned (r : VReg) (t : Nat) : Bool :=
  match r.val with
  | .g _ => r.poison.has t
  | _ => r.poison != 0#1024

/-- The word that lane `t` reads through a specifier (R57). An empty last-result entry reads 0 here; naming it has
trapped before (R61). Of an entry that holds a 64-bit result this is the low word (log 121). -/
def Here.read (h : Here) (r t : Nat) : Word :=
  if r < 0xD0 then (h.team.reg r).val.lane t
  else if r < 0xD4 then ((h.frag.x[r - 0xD0]?).map fun e => e.lo.lane t).getD 0#32
  else if r = 0xD5 then (if h.team.isCore then 0#32 else BitVec.ofNat 32 t)
  else if r = 0xD6 then BitVec.ofNat 32 h.team.f1
  else if r = 0xD7 then BitVec.ofNat 32 h.clock
  else if r = 0xD8 then BitVec.ofNat 32 h.team.e0
  else 0#32

/-- The high word of a pair: the odd register, or the high word of a last-result entry. A 32-bit entry read as a pair
has no high word that the manual states: it is free, one value for all lanes unless the entry is G (log 24). -/
def Here.readHigh (h : Here) (r t : Nat) : Word :=
  if r < 0xD0 then (h.team.reg (r + 1)).val.lane t
  else if r < 0xD4 then
    match h.frag.x[r - 0xD0]? with
    | some ⟨_, some hi⟩ => hi.lane t
    | some ⟨.g _, none⟩ => Config.freeWord (h.fresh + 4 * t + (r - 0xD0))
    | some ⟨_, none⟩ => Config.freeWord (h.fresh + (r - 0xD0))
    | none => 0#32
  else 0#32

/-- The value of lane `t` through a specifier of one, two or four words, low word first (R8, R72). -/
def Here.readN (h : Here) (r words t : Nat) : Nat :=
  match words with
  | 1 => (h.read r t).toNat
  | 2 => (h.read r t).toNat + 2 ^ 32 * (h.readHigh r t).toNat
  | _ => (h.read r t).toNat + 2 ^ 32 * (h.read (r + 1) t).toNat + 2 ^ 64 * (h.read (r + 2) t).toNat
      + 2 ^ 96 * (h.read (r + 3) t).toNat

/-- The shape of one word read through a specifier (R57, R69, R70). -/
def Here.shapeWord (h : Here) (r : Nat) : Shape :=
  if h.team.isCore then .u
  else if r < 0xC0 then (h.team.reg r).val.shape
  else if r < 0xD0 then .g
  else if r < 0xD4 then ((h.frag.x[r - 0xD0]?).map fun e => e.lo.shape).getD .u
  else if r = 0xD5 then .a
  else .u

/-- The shape of an operand; a pair whose registers differ in shape counts as G. -/
def Here.shapeN (h : Here) (r words : Nat) : Shape :=
  if words = 1 ∨ 0xD0 ≤ r then h.shapeWord r
  else if h.shapeWord r = h.shapeWord (r + 1) then h.shapeWord r else .g

/-- Kinds of operation that shape_of tells apart (R70). -/
inductive ShapeOp where
  | mov | addSub | mul | shl | other
  deriving DecidableEq, Repr

/-- shape_of (R70), for a non-empty active set; on the control core every result is U (R69). -/
def Here.shapeOf (h : Here) (op : ShapeOp) (act : Mask) (shapes : List Shape) : Shape :=
  if h.team.isCore then .u
  else if act ≠ h.team.live then .g
  else if op = .mov then shapes.headD .u
  else if shapes.all (· == .u) then .u
  else if (h.type = 0 ∨ h.type = 1) ∧ h.sat = false then
    match op, shapes with
    | .addSub, [p, q] => if p ≠ .g ∧ q ≠ .g then .a else .g
    | .mul, [p, q] => if (p = .a ∧ q = .u) ∨ (p = .u ∧ q = .a) then .a else .g
    | .shl, [p, q] => if p = .a ∧ q = .u then .a else .g
    | _, _ => .g
  else .g

/-! ### Writes -/

/-- A register after a write of `f` in the lanes of `act` with a shape (R64, R67). An affine result is formed from its
values in lanes 0 and 1. Written words lose their poison (R87). -/
def VReg.write (r : VReg) (e0 : Nat) (act : Mask) (sh : Shape) (f : Nat → Word) : VReg :=
  match sh with
  | .u => { val := .u (f (act.lowest e0)), poison := 0#1024 }
  | .a => { val := .a (f 0) (f 1 - f 0), poison := 0#1024 }
  | .g =>
    { val := .g ((List.range e0).map fun t => if act.has t then f t else r.val.lane t),
      poison := (match r.val with
        | .g _ => r.poison
        | _ => if r.poison = 0#1024 then 0#1024 else Mask.first e0) &&& ~~~act }

/-- Enter a fixed-latency result into the last-result file (R60). -/
def Frag.push (f : Frag) (lo : Value) (hi : Option Value) : Frag :=
  { f with x := (({ lo := lo, hi := hi } : XEntry) :: f.x).take 4 }

/-- The high word of a 32-bit last-result entry, where a 64-bit write to x0 keeps it in its inactive lanes: the free word
that a read of the pair gives (log 24). -/
def Here.freeHigh (h : Here) (e : XEntry) : Value :=
  match e.lo with
  | .g _ => .g ((List.range h.team.e0).map fun t => Config.freeWord (h.fresh + 4 * t))
  | _ => .u (Config.freeWord h.fresh)

/-- The register that a destination word stands for before its write: for x0 the value it holds, or zero. -/
def Here.destOld (h : Here) (r k : Nat) : VReg :=
  if r < 0xD0 then h.team.reg (r + k)
  else match h.frag.x[0]? with
    | some e => { val := if k = 0 then e.lo else e.hi.getD (h.freeHigh e), poison := 0#1024 }
    | none => VReg.zero

/-- Write a result of a fixed-latency instruction to its destination and enter it into the last-result file (R58, R60,
R64). An o register stays G (R59). An empty active set changes nothing. -/
def Here.write (h : Here) (r words : Nat) (act : Mask) (sh : Shape) (f : Nat → Nat) : Here :=
  if act = 0#1024 then h
  else
    let word (k t : Nat) : Word := BitVec.ofNat 32 (f t / 2 ^ (32 * k))
    let regSh := if r < 0xC0 then sh else .g
    let set (tm : Team) (k : Nat) : Team :=
      tm.setReg (r + k) ((h.destOld r k).write h.team.e0 act regSh (word k))
    let entry (k : Nat) : Value := ((h.destOld r k).write h.team.e0 act sh (word k)).val
    let tm := if r < 0xD0 then (if words = 2 then set (set h.team 0) 1 else set h.team 0) else h.team
    { h with team := tm, frag := h.frag.push (entry 0) (if words = 2 then some (entry 1) else none) }

/-! ### Register checks (R88) -/

/-- Registers pending or locked by outstanding operations of the team (R84). -/
def Team.pending (tm : Team) : List Nat := tm.outs.flatMap (·.writes)
def Team.locked (tm : Team) : List Nat := tm.outs.flatMap (·.reads)

/-- The number of G registers: those that are G, and those that an outstanding operation will make G (R68). -/
def Team.gCount (tm : Team) : Nat :=
  ((List.range tm.v.length).filter fun r =>
    (tm.reg r).val.shape == .g || tm.outs.any fun o => o.willG.contains r).length

/-- The main registers among `rs` that are not counted as G yet. -/
def Team.newG (tm : Team) (rs : List Nat) : List Nat :=
  (rs.filter fun r => decide (r < 0xC0) && !((tm.reg r).val.shape == .g || tm.outs.any fun o => o.willG.contains r)).eraseDups

/-- What an instruction names, for the checks of R88. A field of n words is a pair or a quad. -/
structure Uses where
  /-- the instruction word, for FLT7 -/
  word : Word
  /-- a reserved field value, or an opcode not legal here -/
  illop : Bool := false
  writes : List (Nat × Nat) := []
  reads : List (Nat × Nat) := []
  /-- destinations of a long-latency instruction: x0 is illegal (R205) -/
  long : Bool := false
  /-- a b register read, and one written -/
  brec : Option Nat := none
  bdst : Option Nat := none
  /-- a window named -/
  window : Option Nat := none
  /-- the guard is tested -/
  guard : Bool := true
  /-- condition codes read besides the guard's, and the one written -/
  ccRead : List Nat := []
  ccWrite : Option Nat := none
  act : Mask := 0#1024
  /-- words that become G -/
  grow : List Nat := []
  /-- registers that must not be locked though they are only read (R297) -/
  unlocked : List Nat := []
  /-- the poisoned words read, where lanes read other lanes' words (R294): specifier and reading lanes -/
  poison : Option (Option (Nat × Mask)) := none
  /-- what the checks of computed register numbers find: out of bounds, and pending or locked (R299, R300) -/
  bound : Option Trap := none
  busy : Option Trap := none

/-- A specifier that a field of n words may hold (R57, R58, R72, R205). -/
def fieldOk (r n : Nat) (write long : Bool) : Bool :=
  decide (r ≤ 0xD8) && !(write && decide (0xD1 ≤ r)) && !(write && long && decide (0xD0 ≤ r)) &&
  (if n = 4 then decide (r < 0xD0) && r % 4 == 0
   else if n = 2 then (if r < 0xD0 then r % 2 == 0 else decide (r ≤ 0xD4))
   else true)

/-- The register words of a field: v and o registers. -/
def fieldWords (f : Nat × Nat) : List Nat := if f.1 < 0xD0 then (List.range f.2).map (f.1 + ·) else []

/-- The first register word at or above V or O (R59, R68). -/
def Team.outOfBounds (tm : Team) (f : Nat × Nat) : Option Nat :=
  (fieldWords f).find? fun r => if r < 0xC0 then decide (tm.vCount ≤ r) else decide (tm.oCount ≤ r - 0xC0)

/-- The first specifier found pending, locked or empty (R61, R84). -/
def Here.hazard (h : Here) (u : Uses) : Option Nat :=
  let pend := h.team.pending
  let lock := h.team.locked
  let w := (u.writes.flatMap fieldWords).find? fun r => pend.contains r || lock.contains r
  let x := (u.reads.find? fun f => decide (0xD0 ≤ f.1) && decide (f.1 < 0xD4) && decide (h.frag.x.length ≤ f.1 - 0xD0)).map (·.1)
  let r := (u.reads.flatMap fieldWords).find? fun r => pend.contains r || (u.unlocked.contains r && lock.contains r)
  let b := ((u.brec.toList.map (0x100 + ·)).find? fun r => pend.contains r).or
    ((u.bdst.toList.map (0x100 + ·)).find? fun r => pend.contains r || lock.contains r)
  let g := if u.guard && modeGcond h.frag.mode != 0 && modeGcond h.frag.mode != 15 then [0x200 + modeGcc h.frag.mode] else []
  let c := ((g ++ u.ccRead.map (0x200 + ·)).find? fun r => pend.contains r).or
    ((u.ccWrite.toList.map (0x200 + ·)).find? fun r => pend.contains r || lock.contains r)
  w.or (x.or (r.or (b.or c)))

/-- The lanes of `act` that read a poisoned word, with the first such specifier (R87). -/
def Here.poisonRead (h : Here) (u : Uses) : Option (Nat × Mask) :=
  let words := u.reads.flatMap fieldWords
  if words.all fun r => (h.team.reg r).poison = 0#1024 then none
  else
    let lanes := Mask.ofPred h.team.e0 fun t => u.act.has t && words.any fun r => (h.team.reg r).poisoned t
    if lanes = 0#1024 then none
    else (words.find? fun r => (u.act.lanes h.team.e0).any fun t => (h.team.reg r).poisoned t).map fun r => (r, lanes)

/-- The destination words that a fault record keeps for REPLACE (R340); x0 stands for itself. -/
def Uses.destWords (u : Uses) : List Nat := u.writes.flatMap fun f => if f.1 < 0xD0 then fieldWords f else List.replicate f.2 f.1

/-- The register checks in the order of R88: the trap of the first that fails. -/
def Here.firstCheck (h : Here) (u : Uses) : Option Trap :=
  let fields := u.writes.map (fun f => (f, true)) ++ u.reads.map (fun f => (f, false))
  if u.illop then some { cause := cILLOP, detail := u.word }
  else if fields.any fun f => !fieldOk f.1.1 f.1.2 f.2 u.long then some { cause := cILLREG, detail := u.word }
  else
    match fields.findSome? fun f => h.team.outOfBounds f.1 with
    | some r => some { cause := cREGBOUND, detail := BitVec.ofNat 32 r }
    | none =>
      match u.window.filter fun w => !(h.group.windows.any fun x => x.num == w) with
      | some w => some { cause := cREGBOUND, detail := BitVec.ofNat 32 (0x100 + w) }
      | none =>
        match u.bound.or (((h.hazard u).map fun r => ({ cause := cHAZARD, detail := BitVec.ofNat 32 r } : Trap)).or u.busy) with
        | some t => some t
        | none =>
          match u.poison.getD (h.poisonRead u) with
          | some (r, lanes) => some { cause := cPOISONREG, lanes := some lanes, detail := BitVec.ofNat 32 r }
          | none =>
            if !h.team.isCore && u.act != 0#1024 && !(h.team.newG u.grow).isEmpty
                && decide (h.team.gMax < h.team.gCount + (h.team.newG u.grow).length) then
              some { cause := cREGCAP, detail := BitVec.ofNat 32 h.team.gCount }
            else none

/-- The trap of the register checks, with the instruction's destination. -/
def Here.check (h : Here) (u : Uses) : Option Trap := (h.firstCheck u).map fun t => { t with dest := u.destWords }

/-- A 32-bit last-result entry is read, or kept in part, as a pair, so a free value is used (log 24). -/
def Here.readsFree (h : Here) (u : Uses) : Bool :=
  (u.reads ++ u.writes).any fun f => f.2 == 2 && decide (0xD0 ≤ f.1) && decide (f.1 < 0xD4) &&
    ((h.frag.x[f.1 - 0xD0]?).map fun e => e.hi.isNone).getD false

/-- The shared course of a fixed-latency instruction: the checks, then its effect, with the trap that the effect
raises, then the instruction boundary. -/
def Here.run (h : Here) (y : Bool) (u : Uses) (k : Here → Here × Option Trap) : Here :=
  match h.check u with
  | some t => h.raise u.act t
  | none =>
    let h' := { (k h).1 with fresh := if h.readsFree u then h.fresh + 4096 else h.fresh }
    match (k h).2 with
    | some t => h'.raise u.act { t with dest := u.destWords }
    | none => { h' with frag := h'.frag.finish y }

/-- The register checks before the rest of an instruction, which has no effect but its trap where they fail (R88, R219). -/
def State.checked (s : State) (h : Here) (u : Uses) (k : Here → State) : State :=
  match h.check u with
  | some t => s.put (h.raise u.act t)
  | none => k h

/-- The record of a long-latency operation as it issues, with nothing to return yet (R83, R84). -/
def Here.newOut (h : Here) (u : Uses) (kind : OutKind) : Out :=
  { id := h.team.nextOp, order := h.frag.order.getD h.team.nextOp, pc := h.frag.pc, word := u.word, kind := kind,
    lanes := if u.act = 0#1024 then h.frag.acting else u.act,
    reads := u.reads.flatMap fieldWords ++ u.brec.toList.map (0x100 + ·),
    writes := u.writes.flatMap fieldWords ++ u.bdst.toList.map (0x100 + ·) ++ u.ccWrite.toList.map (0x200 + ·),
    willG := if h.team.isCore then [] else h.team.newG u.grow,
    dst := u.writes.flatMap fieldWords, uni := u.grow.isEmpty, data := [], part := [], bad := [],
    cc := u.ccWrite, ccData := [], brec := u.bdst, fp := 0#32 }

/-- A fault that a long-latency operation finds; it is delivered at the fragment's park (R85). -/
def Out.fault (o : Out) (t : Trap) : PendFault :=
  { op := o.order, rank := t.rank, cause := t.cause, lanes := t.lanes.getD o.lanes, addr := t.addr, detail := t.detail,
    pte := t.pte, pc := o.pc, deferred := t.deferred, held := false, dest := t.dest, lines := t.lines }

/-- Put an operation in flight with the faults already found. -/
def Here.start (h : Here) (o : Out) (faults : List Trap) : Here :=
  { h with team :=
    { h.team with nextOp := h.team.nextOp + 1, outs := h.team.outs ++ [o],
                  faults := (faults.map o.fault).foldl insertFault h.team.faults } }

/-- The shared course of a long-latency instruction whose result is known at issue: the checks, the operation in flight
with what it will write at its return and its faults, and the instruction boundary. With no active lane nothing is
started. -/
def Here.runLong (h : Here) (y : Bool) (u : Uses) (k : Out → Out × List Trap) : Here :=
  match h.check u with
  | some t => h.raise u.act t
  | none =>
    let r := k (h.newOut u .calc)
    let h' := { (if u.act = 0#1024 then h else h.start r.1 r.2) with
                fresh := if h.readsFree u then h.fresh + 4096 else h.fresh }
    { h' with frag := h'.frag.finish y }

/-- The word of an instruction, for FLT7. -/
def wordOf (i : Instr) : Word := (encode i).getD 0#32

/-- The registers that a result of a shape makes G. -/
def growOf (sh : Shape) (dst words : Nat) : List Nat :=
  if sh = .g then (List.range words).map (dst + ·) else []

end Sys2Proof.Machine
end

