-- ==== Sys2Proof/Machine/Flags.lean ====
section
/-!
DEFINITION. Flag computations: condition codes of integer and float results, and the flags of FPCTL (03 R74, R79, R80;
12 R254; 13 R273).
-/
namespace Sys2Proof.Machine

/-- Write condition-code register k of the lanes of `act` (R74). -/
def Team.writeCc (tm : Team) (k : Nat) (act : Mask) (f : Nat → Flags) : Team :=
  { tm with cc := tm.cc.zipIdx.map fun p => if act.has p.2 then ccSet p.1 k (f p.2) else p.1 }

/-- The condition-code register that CCW names for flag results (R74, R77). -/
def Here.ccw (h : Here) : Option Nat := if modeCcw h.frag.mode = 0 then none else some (modeCcw h.frag.mode - 1)

/-- Write the flags of an instruction to the register that CCW names. -/
def Here.writeFlags (h : Here) (act : Mask) (f : Nat → Flags) : Here :=
  match h.ccw with
  | none => h
  | some k => { h with team := h.team.writeCc k act f }

/-- FPCTL.IDZQ (R79). -/
def Team.idzq (tm : Team) : Bool := tm.fpctl.getLsbD 14

/-- OR raised flags into FPCTL [8:4] (R80). -/
def Team.raiseFp (tm : Team) (fl : FFlags) : Team :=
  { tm with fpctl := tm.fpctl ||| BitVec.ofNat 32 (fl.toNat * 16) }

/-- The enabled ones among raised flags (R79: enables in [13:9]). -/
def enabledFlags (fpctl : Word) (fl : FFlags) : FFlags := fl &&& BitVec.ofNat 5 (bitsOf fpctl.toNat 9 5)

/-- The flags that the lanes of a list raise together. -/
def allFlags (lanes : List Nat) (f : Nat → FFlags) : FFlags := lanes.foldl (fun a t => a ||| f t) 0#5

/-- N and Z of an integer result as the acting format reads it. -/
def intNZ (x : Int) : Bool × Bool := (decide (x < 0), decide (x = 0))

end Sys2Proof.Machine
end

