-- ==== Sys2Proof/Machine/Integer.lean ====
section
/-!
DEFINITION. Integer, conversion and select instructions, opcodes 0x18 to 0x33 (12 R252 to R271; 09 R210, R214, R215).
-/
namespace Sys2Proof.Machine

/-- The acting format: width and signedness (R252). -/
structure IntFmt where
  n : Nat
  signed : Bool
  deriving DecidableEq, Repr

/-- The acting format that TYPE selects; a float TYPE acts as unsigned, for the bit class (R252). -/
def Here.intFmt (h : Here) : IntFmt :=
  match h.format with
  | .int s b => { n := b, signed := s }
  | f => { n := f.bits, signed := false }

/-- The value that a pattern denotes (R253). -/
def IntFmt.val (T : IntFmt) (p : Nat) : Int := intOf T.signed T.n p
/-- An exact result outside the format's range (R254). -/
def IntFmt.outside (T : IntFmt) (x : Int) : Bool := (Machine.sat x (.int T.signed T.n)).2
/-- The stored pattern: wrapped, or clamped with SAT (R253). -/
def IntFmt.narrow (T : IntFmt) (sb : Bool) (x : Int) : Nat :=
  wrapTo T.n (if sb then (Machine.sat x (.int T.signed T.n)).1 else x)
/-- A stored pattern placed in its word or pair (R73, R253). -/
def IntFmt.place (T : IntFmt) (p : Nat) : Nat := if 32 ≤ T.n then p % 2 ^ T.n else wrapTo 32 (T.val p)

/-- The stored pattern of a lane with its C and V. -/
structure IntRes where
  pat : Nat
  c : Bool
  v : Bool
  deriving DecidableEq, Repr

/-- N and Z come from the stored pattern (R254). -/
def IntRes.flags (T : IntFmt) (r : IntRes) : Flags :=
  { n := bitOf r.pat (T.n - 1), z := decide (r.pat % 2 ^ T.n = 0), c := r.c, v := r.v }

/-- The pattern of lane `t` of an operand (R253). -/
def Here.pat (h : Here) (r : BitVec 8) (t : Nat) : Nat := h.readN r.toNat h.words t % 2 ^ h.intFmt.n

/-- What an instruction of the chapter names: its destination and register operands, in TYPE. -/
def Here.intUses (h : Here) (w : Word) (illop flags : Bool) (d : BitVec 8) (reads : List (BitVec 8)) (op : ShapeOp) : Uses :=
  { word := w, illop := illop, writes := [(d.toNat, h.words)], reads := reads.map fun r => (r.toNat, h.words),
    ccWrite := if flags then h.ccw else none, act := h.active,
    grow := growOf (h.shapeOf op h.active (reads.map fun r => h.shapeN r.toNat h.words)) d.toNat h.words }

/-- The shape of the result of register operands. -/
def Here.resShape (h : Here) (op : ShapeOp) (reads : List (BitVec 8)) : Shape :=
  h.shapeOf op h.active (reads.map fun r => h.shapeN r.toNat h.words)

/-- The shared course of an instruction that acts in the acting format and defines flags (R252 to R255). -/
def Here.intOp (h : Here) (y : Bool) (w : Word) (arith : Bool) (op : ShapeOp) (d : BitVec 8) (reads : List (BitVec 8))
    (f : Nat → IntRes) : Here :=
  h.run y (h.intUses w (arith && !h.format.isInt) true d reads op) fun h =>
    ((h.write d.toNat h.words h.active (h.resShape op reads) fun t => h.intFmt.place (f t).pat).writeFlags h.active
      fun t => (f t).flags h.intFmt, none)

/-! ### Results (R258 to R265) -/

def addRes (T : IntFmt) (sb : Bool) (p q : Nat) : IntRes :=
  let x := T.val p + T.val q
  { pat := T.narrow sb x, c := decide (2 ^ T.n ≤ p + q), v := T.outside x }
def subRes (T : IntFmt) (sb : Bool) (p q : Nat) : IntRes :=
  let x := T.val p - T.val q
  { pat := T.narrow sb x, c := decide (q ≤ p), v := T.outside x }
/-- Of an immediate, whose pattern is it modulo 2^n. -/
def addiRes (T : IntFmt) (sb : Bool) (p : Nat) (i : Int) : IntRes :=
  let x := T.val p + i
  { pat := T.narrow sb x, c := decide (2 ^ T.n ≤ p + wrapTo T.n i), v := T.outside x }
def mulRes (T : IntFmt) (sb : Bool) (p q : Nat) : IntRes :=
  let x := T.val p * T.val q
  { pat := T.narrow sb x, c := false, v := T.outside x }
def mulhRes (T : IntFmt) (p q : Nat) : IntRes :=
  { pat := wrapTo T.n (floorDiv (T.val p * T.val q) (2 ^ T.n)), c := false, v := false }
def madRes (T : IntFmt) (sb : Bool) (d p q : Nat) : IntRes :=
  let x := T.val p * T.val q + T.val d
  { pat := T.narrow sb x, c := false, v := T.outside x }
def minRes (T : IntFmt) (p q : Nat) : IntRes :=
  { pat := if T.val p ≤ T.val q then p else q, c := false, v := false }
def maxRes (T : IntFmt) (p q : Nat) : IntRes :=
  { pat := if T.val p ≤ T.val q then q else p, c := false, v := false }
def absRes (T : IntFmt) (sb : Bool) (p : Nat) : IntRes :=
  let x : Int := if T.signed then (T.val p).natAbs else T.val p
  { pat := T.narrow sb x, c := false, v := T.outside x }
def bitRes (p : Nat) : IntRes := { pat := p, c := false, v := false }
def shlRes (T : IntFmt) (sb : Bool) (p amount : Nat) : IntRes :=
  let s := amount % T.n
  let x := T.val p * (2 ^ s : Nat)
  { pat := T.narrow sb x, c := decide (0 < s) && bitOf p (T.n - s), v := T.outside x }
def shrRes (T : IntFmt) (p amount : Nat) : IntRes :=
  let s := amount % T.n
  { pat := p / 2 ^ s, c := decide (0 < s) && bitOf p (s - 1), v := false }
def sarRes (T : IntFmt) (p amount : Nat) : IntRes :=
  let s := amount % T.n
  { pat := wrapTo T.n (floorDiv (intOf true T.n p) (2 ^ s)), c := decide (0 < s) && bitOf p (s - 1), v := false }

/-- Position and length of a bit field, the length cut at the top (R264). -/
def fieldPos (b : Nat) : Nat := b % 256
def fieldLen (n b : Nat) : Nat := if b % 256 < n then min (b / 256 % 256) (n - b % 256) else 0
def bfeRes (T : IntFmt) (p b : Nat) : IntRes :=
  let len := fieldLen T.n b
  let f := bitsOf p (fieldPos b) len
  bitRes (if len = 0 then 0 else if T.signed then wrapTo T.n (intOf true len f) else f)
def bfiRes (T : IntFmt) (d p b : Nat) : IntRes :=
  let len := fieldLen T.n b
  let pos := fieldPos b
  bitRes (if len = 0 then d else d - bitsOf d pos len * 2 ^ pos + bitsOf p 0 len * 2 ^ pos)
/-- The ones among the low n bits. -/
def popcount : Nat → Nat → Nat
  | 0, _ => 0
  | n + 1, p => (if bitOf p n then 1 else 0) + popcount n p
/-- The zeros above the highest one of n bits. -/
def clzOf : Nat → Nat → Nat
  | 0, _ => 0
  | n + 1, p => if bitOf p n then 0 else 1 + clzOf n p
/-- The low n bits with bit j moved to bit n − 1 − j. -/
def brevOf : Nat → Nat → Nat
  | 0, _ => 0
  | n + 1, p => (p % 2) * 2 ^ n + brevOf n (p / 2)

/-! ### Moves -/

/-- MOVI (R257). -/
def execMovi (y : Bool) (d : BitVec 8) (i : BitVec 16) (s : State) : Host.Outcome State Fault Refusal :=
  issue s fun h =>
    let sh := h.shapeOf .other h.active []
    h.run y { word := wordOf (.movi y d i), writes := [(d.toNat, 1)], act := h.active, grow := growOf sh d.toNat 1 } fun h =>
      (h.write d.toNat 1 h.active sh fun _ => (i.signExtend 32).toNat, none)

/-- MOVIH (R257). -/
def execMovih (y : Bool) (d : BitVec 8) (i : BitVec 16) (s : State) : Host.Outcome State Fault Refusal :=
  issue s fun h =>
    let sh := h.shapeOf .other h.active [h.shapeWord d.toNat]
    h.run y { word := wordOf (.movih y d i), writes := [(d.toNat, 1)], reads := [(d.toNat, 1)], act := h.active,
              grow := growOf sh d.toNat 1 } fun h =>
      (h.write d.toNat 1 h.active sh fun t => (h.read d.toNat t).toNat % 65536 + 65536 * i.toNat, none)

/-- ADDI (R258). -/
def execAddi (y : Bool) (d : BitVec 8) (i : BitVec 16) (s : State) : Host.Outcome State Fault Refusal :=
  issue s fun h =>
    h.intOp y (wordOf (.addi y d i)) true .other d [d] fun t => addiRes h.intFmt h.sat (h.pat d t) i.toInt

/-- MOV: the whole word, or pair, with its shape (R257, R64). -/
def execMov (y : Bool) (d a : BitVec 8) (s : State) : Host.Outcome State Fault Refusal :=
  issue s fun h =>
    h.run y (h.intUses (wordOf (.mov y d a)) false false d [a] .mov) fun h =>
      (h.write d.toNat h.words h.active (h.resShape .mov [a]) fun t => h.readN a.toNat h.words t, none)

/-! ### Arithmetic class -/

/-- IADD (R258). -/
def execIadd (y : Bool) (d a b : BitVec 8) (s : State) : Host.Outcome State Fault Refusal :=
  issue s fun h => h.intOp y (wordOf (.iadd y d a b)) true .addSub d [a, b] fun t =>
    addRes h.intFmt h.sat (h.pat a t) (h.pat b t)
/-- ISUB (R258). -/
def execIsub (y : Bool) (d a b : BitVec 8) (s : State) : Host.Outcome State Fault Refusal :=
  issue s fun h => h.intOp y (wordOf (.isub y d a b)) true .addSub d [a, b] fun t =>
    subRes h.intFmt h.sat (h.pat a t) (h.pat b t)
/-- IMUL (R259). -/
def execImul (y : Bool) (d a b : BitVec 8) (s : State) : Host.Outcome State Fault Refusal :=
  issue s fun h => h.intOp y (wordOf (.imul y d a b)) true .mul d [a, b] fun t =>
    mulRes h.intFmt h.sat (h.pat a t) (h.pat b t)
/-- IMULH (R259). -/
def execImulh (y : Bool) (d a b : BitVec 8) (s : State) : Host.Outcome State Fault Refusal :=
  issue s fun h => h.intOp y (wordOf (.imulh y d a b)) true .other d [a, b] fun t =>
    mulhRes h.intFmt (h.pat a t) (h.pat b t)
/-- IMAD (R259). -/
def execImad (y : Bool) (d a b : BitVec 8) (s : State) : Host.Outcome State Fault Refusal :=
  issue s fun h => h.intOp y (wordOf (.imad y d a b)) true .other d [d, a, b] fun t =>
    madRes h.intFmt h.sat (h.pat d t) (h.pat a t) (h.pat b t)

/-- The shared course of IDIV and IREM (R260): lanes with a zero divisor fault with IDZQ 0 and give 0 with V otherwise;
the others return their result and flags. -/
def Here.divide (h : Here) (y : Bool) (w : Word) (d a b : BitVec 8) (f : IntFmt → Nat → Nat → IntRes) : Here :=
  let u := { h.intUses w (!h.format.isInt) true d [a, b] .other with long := true }
  let T := h.intFmt
  let zero (t : Nat) : Bool := h.pat b t == 0
  let res (t : Nat) : IntRes := if zero t then { pat := 0, c := false, v := true } else f T (h.pat a t) (h.pat b t)
  let bad := if h.team.idzq then 0#1024 else Mask.ofPred h.team.e0 fun t => h.active.has t && zero t
  let lanes := (h.active &&& ~~~bad).lanes h.team.e0
  h.runLong y u fun o =>
    ({ o with data := lanes.map (fun t => (t, T.place (res t).pat)),
              ccData := lanes.map (fun t => (t, (res t).flags T)) },
     if bad = 0#1024 then [] else [{ cause := cDIVZ, lanes := some bad, dest := o.dst }])

def divRes (sb : Bool) (T : IntFmt) (p q : Nat) : IntRes :=
  let x := (T.val p).tdiv (T.val q)
  { pat := T.narrow sb x, c := false, v := T.outside x }
def remRes (T : IntFmt) (p q : Nat) : IntRes :=
  { pat := wrapTo T.n ((T.val p).tmod (T.val q)), c := false, v := false }

/-- IDIV (R260). -/
def execIdiv (y : Bool) (d a b : BitVec 8) (s : State) : Host.Outcome State Fault Refusal :=
  issue s fun h => h.divide y (wordOf (.idiv y d a b)) d a b (divRes h.sat)
/-- IREM (R260). -/
def execIrem (y : Bool) (d a b : BitVec 8) (s : State) : Host.Outcome State Fault Refusal :=
  issue s fun h => h.divide y (wordOf (.irem y d a b)) d a b remRes

/-- IMIN (R261). -/
def execImin (y : Bool) (d a b : BitVec 8) (s : State) : Host.Outcome State Fault Refusal :=
  issue s fun h => h.intOp y (wordOf (.imin y d a b)) true .other d [a, b] fun t =>
    minRes h.intFmt (h.pat a t) (h.pat b t)
/-- IMAX (R261). -/
def execImax (y : Bool) (d a b : BitVec 8) (s : State) : Host.Outcome State Fault Refusal :=
  issue s fun h => h.intOp y (wordOf (.imax y d a b)) true .other d [a, b] fun t =>
    maxRes h.intFmt (h.pat a t) (h.pat b t)
/-- IABS (R261). -/
def execIabs (y : Bool) (d a : BitVec 8) (s : State) : Host.Outcome State Fault Refusal :=
  issue s fun h => h.intOp y (wordOf (.iabs y d a)) true .other d [a] fun t => absRes h.intFmt h.sat (h.pat a t)

/-- ICMP: flags alone, SAT ignored (R258). -/
def execIcmp (y : Bool) (a b : BitVec 8) (s : State) : Host.Outcome State Fault Refusal :=
  issue s fun h =>
    h.run y { word := wordOf (.icmp y a b), illop := !h.format.isInt, reads := [(a.toNat, h.words), (b.toNat, h.words)],
              ccWrite := h.ccw, act := h.active } fun h =>
      (h.writeFlags h.active fun t => (subRes h.intFmt false (h.pat a t) (h.pat b t)).flags h.intFmt, none)

/-! ### Bit class -/

/-- AND (R262). -/
def execAnd (y : Bool) (d a b : BitVec 8) (s : State) : Host.Outcome State Fault Refusal :=
  issue s fun h => h.intOp y (wordOf (.and y d a b)) false .other d [a, b] fun t => bitRes (h.pat a t &&& h.pat b t)
/-- OR (R262). -/
def execOr (y : Bool) (d a b : BitVec 8) (s : State) : Host.Outcome State Fault Refusal :=
  issue s fun h => h.intOp y (wordOf (.or y d a b)) false .other d [a, b] fun t => bitRes (h.pat a t ||| h.pat b t)
/-- XOR (R262). -/
def execXor (y : Bool) (d a b : BitVec 8) (s : State) : Host.Outcome State Fault Refusal :=
  issue s fun h => h.intOp y (wordOf (.xor y d a b)) false .other d [a, b] fun t => bitRes (h.pat a t ^^^ h.pat b t)

/-- The low word of an operand, which holds a shift amount or a field (R263, R264). -/
def Here.low (h : Here) (r : BitVec 8) (t : Nat) : Nat := (h.read r.toNat t).toNat

/-- SHL (R263). -/
def execShl (y : Bool) (d a b : BitVec 8) (s : State) : Host.Outcome State Fault Refusal :=
  issue s fun h => h.intOp y (wordOf (.shl y d a b)) false .shl d [a, b] fun t =>
    shlRes h.intFmt h.sat (h.pat a t) (h.low b t)
/-- SHR (R263). -/
def execShr (y : Bool) (d a b : BitVec 8) (s : State) : Host.Outcome State Fault Refusal :=
  issue s fun h => h.intOp y (wordOf (.shr y d a b)) false .other d [a, b] fun t =>
    shrRes h.intFmt (h.pat a t) (h.low b t)
/-- SAR (R263). -/
def execSar (y : Bool) (d a b : BitVec 8) (s : State) : Host.Outcome State Fault Refusal :=
  issue s fun h => h.intOp y (wordOf (.sar y d a b)) false .other d [a, b] fun t =>
    sarRes h.intFmt (h.pat a t) (h.low b t)
/-- BFE (R264). -/
def execBfe (y : Bool) (d a b : BitVec 8) (s : State) : Host.Outcome State Fault Refusal :=
  issue s fun h => h.intOp y (wordOf (.bfe y d a b)) false .other d [a, b] fun t =>
    bfeRes h.intFmt (h.pat a t) (h.low b t)
/-- BFI (R264). -/
def execBfi (y : Bool) (d a b : BitVec 8) (s : State) : Host.Outcome State Fault Refusal :=
  issue s fun h => h.intOp y (wordOf (.bfi y d a b)) false .other d [d, a, b] fun t =>
    bfiRes h.intFmt (h.pat d t) (h.pat a t) (h.low b t)

/-- POPC (R265): the count is written with the high word zero under a 64-bit TYPE. -/
def execPopc (y : Bool) (d a : BitVec 8) (s : State) : Host.Outcome State Fault Refusal :=
  issue s fun h => h.intOp y (wordOf (.popc y d a)) false .other d [a] fun t => bitRes (popcount h.intFmt.n (h.pat a t))
/-- CLZ (R265). -/
def execClz (y : Bool) (d a : BitVec 8) (s : State) : Host.Outcome State Fault Refusal :=
  issue s fun h => h.intOp y (wordOf (.clz y d a)) false .other d [a] fun t => bitRes (clzOf h.intFmt.n (h.pat a t))
/-- BREV (R265). -/
def execBrev (y : Bool) (d a : BitVec 8) (s : State) : Host.Outcome State Fault Refusal :=
  issue s fun h => h.intOp y (wordOf (.brev y d a)) false .other d [a] fun t => bitRes (brevOf h.intFmt.n (h.pat a t))

/-- SEL (R266): Z of the register that CCW names chooses; the condition code counts as a G operand. A lane reads both
of its operand words, whichever it takes (log 129). -/
def execSel (y : Bool) (d a b : BitVec 8) (s : State) : Host.Outcome State Fault Refusal :=
  issue s fun h =>
    let sh : Shape := if h.team.isCore then .u else .g
    h.run y { word := wordOf (.sel y d a b), illop := modeCcw h.frag.mode == 0, writes := [(d.toNat, h.words)],
              reads := [(a.toNat, h.words), (b.toNat, h.words)], ccRead := h.ccw.toList, act := h.active,
              grow := growOf sh d.toNat h.words } fun h =>
      (h.write d.toNat h.words h.active sh fun t =>
        h.readN (if (h.team.ccOf (modeCcw h.frag.mode - 1) t).z then b.toNat else a.toNat) h.words t, none)

/-! ### Conversion (R267 to R269) -/

/-- Write a result that raises float flags: the flags are set, lanes that raise an enabled one are left unwritten and
trap FPEXC (R80, R269, R273). -/
def Here.writeFp (h : Here) (d words : Nat) (act : Mask) (sh : Shape) (f : Nat → Nat × FFlags) : Here × Option Trap :=
  let bad := Mask.ofPred h.team.e0 fun t => act.has t && (enabledFlags h.team.fpctl (f t).2 != 0#5)
  let raised := allFlags (act.lanes h.team.e0) fun t => (f t).2
  let enabled := allFlags (bad.lanes h.team.e0) fun t => enabledFlags h.team.fpctl (f t).2
  let h' := h.write d words (act &&& ~~~bad) sh fun t => (f t).1
  ({ h' with team := h'.team.raiseFp raised },
   if bad = 0#1024 then none
   else some { cause := cFPEXC, lanes := some bad, detail := BitVec.ofNat 32 (enabled.toNat * 16) })

/-- A converted pattern in its word or pair: integers are extended as R73 states, the others zero-extended (R215). -/
def placeIn (f : Format) (p : Nat) : Nat :=
  match f with
  | .int true b => if b < 32 then wrapTo 32 (intOf true b p) else p
  | _ => p

/-- The exact value of a source and the flag that reading it raises (R105, R267): the reserved sint8s code is a NaN on
a float target and 0 on an integer target, with IV. -/
def cvtValue (src dst : Format) (ftz : Bool) (p : Nat) : Num × FFlags :=
  if src = .sint8s ∧ p % 256 = 0x80 then (if dst.isInt then .fin false 0 0 else .nan false, fIV)
  else (flushInput src ftz (decodeNum src p), 0#5)

/-- One lane of a conversion. -/
def cvtLane (src dst : Format) (rm : Nat) (sb ftz : Bool) (p : Nat) : Nat × FFlags :=
  let v := cvtValue src dst ftz p
  let r := round v.1 dst rm sb (ftz && dst.isIeee)
  (placeIn dst r.1, r.2 ||| v.2)

/-- The shared course of both directions of CVT. -/
def Here.convert (h : Here) (y : Bool) (w : Word) (d : BitVec 7) (a : BitVec 8) (fmt : BitVec 8) (toward : Bool) : Here :=
  match codeFormat fmt.toNat with
  | none => h.run y { word := w, illop := true, act := h.active } fun h => (h, none)
  | some L =>
    let src := if toward then h.format else L
    let dst := if toward then L else h.format
    let nw (f : Format) := if f.is64 then 2 else 1
    let sh := h.shapeOf .other h.active [h.shapeN a.toNat (nw src)]
    h.run y { word := w, writes := [(d.toNat, nw dst)], reads := [(a.toNat, nw src)], act := h.active,
              grow := growOf sh d.toNat (nw dst) } fun h =>
      h.writeFp d.toNat (nw dst) h.active sh fun t =>
        cvtLane src dst h.rnd h.sat h.ftz (h.readN a.toNat (nw src) t)

/-- CVT in the direction "to" (R215, R267). -/
def execCvt (y : Bool) (d : BitVec 7) (a f : BitVec 8) (s : State) : Host.Outcome State Fault Refusal :=
  issue s fun h => h.convert y (wordOf (.cvt y d a f)) d a f true
/-- CVT in the direction "from" (R215, R267). -/
def execCvtFrom (y : Bool) (d : BitVec 7) (a f : BitVec 8) (s : State) : Host.Outcome State Fault Refusal :=
  issue s fun h => h.convert y (wordOf (.cvtFrom y d a f)) d a f false

end Sys2Proof.Machine
end

