-- ==== Sys2Proof/Machine/Lines.lean ====
section
/-!
DEFINITION. Lines of memory: which unit and slice holds a line, keys and marks, tags, poison, and the reads and writes of
bytes at the ordering point (05 R130 to R133, R451; 06 R137, R138; 22 R396 to R412; 23 R423, R424).
-/
namespace Sys2Proof.Machine

/-! ### Swizzles (R122), and where a line lies (R400, R401) -/

/-- The die of a cluster (R18). -/
def dieOf (cluster : Nat) : Nat := cluster / 72

/-- Bits of x at even and of y at odd places (R122). -/
def morton (x y : Nat) : Nat :=
  (List.range 16).foldl (fun m j => m + (x / 2 ^ j % 2) * 2 ^ (2 * j) + (y / 2 ^ j % 2) * 2 ^ (2 * j + 1)) 0

/-- The swizzle of R122. -/
def swz (code o lsz : Nat) : Nat :=
  let n := o / 2 ^ lsz
  match code with
  | 1 => let t := (o / 128 % 32) * 4; o ^^^ (t - t % 2 ^ lsz)
  | 2 => morton (bitsOf n 0 16) (bitsOf n 16 16) * 2 ^ lsz + bitsOf n 32 16 * 2 ^ (32 + lsz) + o % 2 ^ lsz
  | 3 => (n - n % 1024 + bitsOf n 0 5 * 32 + bitsOf n 5 5) * 2 ^ lsz + o % 2 ^ lsz
  | _ => o


/-- The interleave entry of region n. -/
def State.region (s : State) (n : Nat) : Region :=
  (s.sv.regions.find? fun r => r.num == n).getD
    { num := n, state := if n < s.sv.usable then .normal else .retired, world := false, spread := 0, nspread := 0,
      hmap := 0, nhmap := 0, cursor := 0, short := false, during := [] }

/-- Put an interleave entry. -/
def State.setRegion (s : State) (r : Region) : State :=
  { s with sv := { s.sv with regions := r :: s.sv.regions.filter fun q => q.num != r.num } }

def regionOf (hpa : Nat) : Nat := hpa / 2 ^ 28
/-- Stripe of an HPA within the package, within its region, and the line's number in its stripe (R397). -/
def stripeOf (hpa : Nat) : Nat := hpa / 2048
def stripeIn (hpa : Nat) : Nat := hpa / 2048 % 131072
def lineIn (hpa : Nat) : Nat := hpa % 2048 / 128

/-- The spread and home map under which a stripe of a region is served (R402). -/
def Region.spreadOf (r : Region) (stripe : Nat) : Nat := if r.state = .migrating ∧ stripe < r.cursor then r.nspread else r.spread
def Region.hmapOf (r : Region) (stripe : Nat) : Nat := if r.state = .migrating ∧ stripe < r.cursor then r.nhmap else r.hmap

/-- A unit lies in another, or is it. -/
def unitIn : MemUnit → MemUnit → Bool
  | .stack s, .stack t => s == t
  | .channel s _, .stack t => s == t
  | .bank s _ _, .stack t => s == t
  | .row s _ _ _, .stack t => s == t
  | .channel s c, .channel t d => s == t && c == d
  | .bank s c _, .channel t d => s == t && c == d
  | .row s c _ _, .channel t d => s == t && c == d
  | .bank s c b, .bank t d e => s == t && c == d && b == e
  | .row s c b _, .bank t d e => s == t && c == d && b == e
  | .row s c b r, .row t d e q => s == t && c == d && b == e && r == q
  | _, _ => false

/-- The spread of a number; spread 0 holds every unit. -/
def State.spread (s : State) (n : Nat) : Spread :=
  (s.sv.spreads.find? fun x => x.num == n).getD { num := n, seed := none, banks := [], excludes := [], lost := [], moored := [] }

/-- A spread lets lines lie in a bank of a channel (R400); a moored spread names its channels (R436). -/
def Spread.holds (x : Spread) (channel bank : Nat) : Bool :=
  decide (channel < 384) && decide (bank < 64) && (x.moored.isEmpty || x.moored.contains channel) &&
  !(x.excludes.any (unitIn (.bank (channel / 32) (channel % 32) bank)))

/-- The free placement of a stripe keeps R397 and R400: 18 distinct channels, at most two on a stack, in the spread's units. -/
def Spread.placementOk (x : Spread) (stripe : Nat) : Bool :=
  let cs := (List.range 18).map (Config.channelOf x.num stripe)
  decide cs.Nodup && ((List.range 12).all fun k => decide ((cs.filter fun c => c / 32 == k).length ≤ 2)) &&
  (List.range 18).all fun k => x.holds (Config.channelOf x.num stripe k) (Config.bankRowOf x.num stripe k).1

/-- Places that keep them: two channels of each stack, with a bank of each. -/
def Spread.places (x : Spread) : List (Nat × Nat) :=
  (List.range 12).flatMap fun k => ((List.range 32).filterMap fun c =>
    ((List.range 64).find? (x.holds (32 * k + c))).map fun b => (32 * k + c, b)).take 2

/-- The channel and bank of a line (16: P, 17: Q) of a stripe in a spread whose places are its own: the free placement where it keeps
the rules, and else one that does (log 17). A spread that has not 18 places holds no region (State.spreadWithout, State.started). -/
def Spread.ownPlace (x : Spread) (stripe line : Nat) : Nat × Nat :=
  let free := (Config.channelOf x.num stripe line, (Config.bankRowOf x.num stripe line).1)
  if x.placementOk stripe then free else x.places.getD line free

/-- The spread whose places a spread keeps: its own, or that of the one before the loss of banks. -/
def Spread.root (x : Spread) : Spread :=
  match x.seed with
  | none => x
  | some (n, excludes) => { x with num := n, seed := none, banks := [], excludes := excludes }

/-- The lines of a stripe after the loss of a bank: the one in it goes to a channel of the same stack that holds no other line of the
stripe (R406; which one, and which bank of it, is the model's, log 17). -/
def Spread.offBank (x : Spread) (ps : List (Nat × Nat)) (u : MemUnit) : List (Nat × Nat) :=
  ps.map fun p =>
    if u ≠ .bank (p.1 / 32) (p.1 % 32) p.2 then p
    else
      let k := p.1 / 32
      (((List.range 32).map (32 * k + ·)).findSome? fun c =>
        if ps.any fun q => q.1 == c then none else ((List.range 64).find? (x.holds c)).map fun b => (c, b)).getD p

/-- The channel and bank of a line of a stripe in a spread. -/
def Spread.placeOf (x : Spread) (stripe line : Nat) : Nat × Nat :=
  if x.banks.isEmpty then x.root.ownPlace stripe line
  else (x.banks.foldl x.offBank ((List.range 18).map (x.root.ownPlace stripe))).getD line (0, 0)

/-- The channel, and the bank, that hold line `line` (16: P, 17: Q) of the stripe of an HPA. -/
def State.channel (s : State) (hpa line : Nat) : Nat :=
  ((s.spread ((s.region (regionOf hpa)).spreadOf (stripeIn hpa))).placeOf (stripeOf hpa) line).1
def State.bankIn (s : State) (hpa line : Nat) : Nat :=
  ((s.spread ((s.region (regionOf hpa)).spreadOf (stripeIn hpa))).placeOf (stripeOf hpa) line).2

/-- The lines of the granule of its channel in which a line lies (R404, log 17). -/
def State.granule (s : State) (addr : Nat) : List Nat :=
  addr :: ((Config.granuleLines ((s.region (regionOf addr)).spreadOf (stripeIn addr)) (stripeOf addr) (lineIn addr)).filter fun a =>
    a % 128 == 0 && a != addr && s.channel a (lineIn a) == s.channel addr (lineIn addr)).take 15

/-- The slice that homes a channel under a home map: its own number, or the same place on the other die for a stack that
the map moves (R17, R400; which slice of that die it is, the spec leaves open: log 105). -/
def State.sliceUnder (s : State) (hmap channel : Nat) : Nat :=
  match (s.sv.hmaps.find? fun m => m.num == hmap).bind fun m => m.moved.find? fun p => p.1 == channel / 32 with
  | some (_, die) => 128 * die + channel % 128
  | none => channel

/-- The compute dies that are TRUSTED. -/
def State.trustedDies (s : State) : List Nat := (List.range 3).filter fun d => decide ((s.die d).state = .trusted)

/-- The home slice of a line (R130, R132). The free hash of a tier-2 line is held to the slices of the TRUSTED dies (log 17). -/
def State.sliceOf (s : State) (sp : Space) (addr : Nat) : Nat :=
  match sp with
  | .device => s.sliceUnder ((s.region (regionOf addr)).hmapOf (stripeIn addr)) (s.channel addr (lineIn addr))
  | .tier2 =>
    let n := Config.tier2Slice s.trustedDies addr
    if n < 384 ∧ n / 128 ∈ s.trustedDies then n else 128 * s.trustedDies.headD 0 + n % 128
  | .scratch _ => 0

/-- The number of a line among all the lines of all stripes, 18 to a stripe. -/
def lineNo (hpa line : Nat) : Nat := 18 * stripeOf hpa + line

/-- The stack, channel and bank of a place. -/
def unitsAt (p : Nat × Nat) : List MemUnit :=
  [.stack (p.1 / 32), .channel (p.1 / 32) (p.1 % 32), .bank (p.1 / 32) (p.1 % 32) p.2]

/-- A line's place under a spread is on a unit of it that is retired. -/
def State.lostUnder (s : State) (spread hpa line : Nat) : Bool :=
  let x := s.spread spread
  !x.lost.isEmpty && (unitsAt (x.placeOf (stripeOf hpa) line)).any x.lost.contains

/-- No line fails, and no unit of a spread is lost. -/
def State.unhurt (s : State) : Bool := s.sv.weak.isEmpty && s.sv.spreads.all fun x => x.lost.isEmpty

/-- A line is unavailable: its place in the spread in force is on a retired unit, and it has not been rebuilt elsewhere (R400,
R406). -/
def State.unitLost (s : State) (hpa line : Nat) : Bool :=
  !s.unhurt && !s.sv.rebuilt.contains (lineNo hpa line) && s.lostUnder ((s.region (regionOf hpa)).spreadOf (stripeIn hpa)) hpa line

/-- A line of a stripe that cannot be read from its place: it is unavailable, or it fails its code beyond correction (R399, R406). -/
def State.lineLost (s : State) (hpa line : Nat) : Bool :=
  s.sv.weak.any (fun w => w.1 == lineNo hpa line && w.2) || s.unitLost hpa line

/-- A line whose place is lost, and that is reconstructed or written, goes to the place that NSPREAD gives (R399, R402); a region
that is not moving has none for it, nor does one whose new place is lost too. -/
def State.lineAway (s : State) (hpa line : Nat) : Bool :=
  let r := s.region (regionOf hpa)
  decide (r.state = .migrating) && decide (r.cursor ≤ stripeIn hpa) && s.unitLost hpa line && !s.lostUnder r.nspread hpa line

/-- A line is whole again: it has been written, at its place, or at the one that NSPREAD gives. -/
def State.wholeLine (s : State) (hpa line : Nat) : State :=
  let n := lineNo hpa line
  { s with sv := { s.sv with
      weak := if s.sv.weak.isEmpty then [] else s.sv.weak.filter fun w => w.1 != n
      rebuilt := if s.lineAway hpa line then (n :: s.sv.rebuilt).eraseDups else s.sv.rebuilt } }

/-- The lines of a stripe that cannot be read, among the 18. -/
def State.lostLines (s : State) (hpa : Nat) : List Nat :=
  if s.unhurt then [] else (List.range 18).filter (s.lineLost hpa)

/-! ### Poison and syndromes (R133, R451) -/

/-- A line is poisoned; one that is keeps the syndrome of the event that poisoned it (R451). -/
def State.poison? (s : State) (sp : Space) (addr : Nat) : Option Word :=
  (s.poisoned.find? fun p => decide (p.1 = sp) && p.2.1 == addr).map (·.2.2)
def State.setPoison (s : State) (sp : Space) (addr : Nat) (syn : Word) : State :=
  if (s.poison? sp addr).isSome then s else { s with poisoned := (sp, addr, syn) :: s.poisoned }
def State.clearPoison (s : State) (sp : Space) (addr : Nat) : State :=
  { s with poisoned := s.poisoned.filter fun p => !(decide (p.1 = sp) && p.2.1 == addr) }

/-- The syndrome of device memory (R451). -/
def deviceSyndrome (why lost channel : Nat) : Word := BitVec.ofNat 32 (why * 2 ^ 28 + lost * 2 ^ 23 + channel * 2 ^ 14)
def synRetired : Word := 0xFFFFFFFF#32
def synNoKey : Word := 0xFFFFFFFE#32
def synTier2 : Word := 0x80000000#32

/-- The installation number of the key that a key id holds. -/
def State.keyGenOf (s : State) (id : Nat) : Option Nat := (s.trust.keys.find? fun k => k.1 == id).map (·.2.1)

/-- Checks are unreliable or stale for a degraded read of the line's stripe, or deltas are in flight (R398, R405). -/
def State.stripeBusy (s : State) (hpa : Nat) : Bool :=
  s.sv.deltas.any (fun d => d.stripe == stripeOf hpa) || s.sv.stale.contains (stripeOf hpa)

/-- A clear-pending line that the sweep has not reached and nothing has written: it reads zero (R412). -/
def State.clearPending (s : State) (addr : Nat) : Bool :=
  s.sv.clearing.any fun c => decide (16384 * c.first + c.swept ≤ addr / 128) && decide (addr / 128 < 16384 * (c.first + c.count)) &&
    !c.written.contains (addr / 128)

/-- A read of a line of a stripe is degraded (R399): its slice does not hold it, it is not waiting to be cleared, and its place cannot
be read. -/
def State.lineUnread (s : State) (hpa line : Nat) : Bool :=
  let addr := hpa / 2048 * 2048 + 128 * line
  s.lineLost hpa line && (decide (16 ≤ line) || !s.clearPending addr && !(s.dirty.any fun d => decide (d.space = .device) && d.addr == addr))
def State.degraded (s : State) (sp : Space) (addr : Nat) : Bool := decide (sp = .device) && s.lineUnread addr (lineIn addr)

/-- The channel that holds a line is in self-refresh (R436). -/
def State.asleep (s : State) (hpa line : Nat) : Bool := !s.sv.selfRefresh.isEmpty && s.sv.selfRefresh.contains (s.channel hpa line)

/-- The lines of a stripe that wait for the home's other work: the stripe is locked by the Ferry, a degraded read finds deltas in flight,
a channel is in self-refresh (R398, R402, R436). -/
def State.stripeLineBlocked (s : State) (hpa line : Nat) : Bool :=
  s.sv.locked.contains (stripeOf hpa) || (s.stripeBusy hpa && s.lineUnread hpa line) || s.asleep hpa line
def State.lineBlocked (s : State) (p : Place) : Bool :=
  match p.space with
  | .device => s.stripeLineBlocked p.addr (lineIn p.addr)
  | _ => false

/-- An access that waits for a channel in self-refresh calls it out (R436). -/
def State.callChannel (s : State) (p : Place) : State :=
  if decide (p.space = .device) && s.asleep p.addr (lineIn p.addr) then
    { s with sv := { s.sv with called := (s.channel p.addr (lineIn p.addr) :: s.sv.called).eraseDups } }
  else s

/-- A degraded read cannot rebuild the line: more than two of the stripe's lines are unreadable, or its checks are
unreliable (R399, R405). -/
def State.unrecoverable (s : State) (addr : Nat) : Bool :=
  decide (2 < (s.lostLines addr).length) || s.sv.unreliable.contains (stripeOf addr)

/-- Why the data of a line cannot be returned to a read: its region is RETIRED, its key id holds no key, it is poisoned,
or it cannot be rebuilt; with the syndrome (R133, R399, R401, R423). -/
def State.readSyndrome (s : State) (p : Place) : Option Word :=
  match p.space with
  | .device =>
    if (s.region (regionOf p.addr)).state = .retired then some synRetired
    else if (s.keyGenOf p.keyid).isNone then some synNoKey
    else
      match s.poison? p.space p.addr with
      | some w => some w
      | none =>
        if s.degraded p.space p.addr && s.unrecoverable p.addr then
          some (deviceSyndrome 0 (s.lostLines p.addr).length (s.channel p.addr (lineIn p.addr)))
        else none
  | sp => s.poison? sp p.addr

/-! ### Keys (R423, R424, R412) -/

/-- How a line is stored: under which key installation; none: it carries the ZERO mark, or holds zero. -/
def State.sealOf (s : State) (addr : Nat) : Option (Nat × Nat) :=
  (s.trust.sealed.find? fun p => p.1 == addr).map (·.2)

/-- A line of device memory was stored under another key than the one that reads it, so its bytes are undefined. -/
def State.wrongKey (s : State) (p : Place) : Bool :=
  match p.space with
  | .device =>
    match s.sealOf p.addr with
    | none => false
    | some k => decide (some k ≠ (s.keyGenOf p.keyid).map fun g => (p.keyid, g))
  | _ => false

/-- The line is stored under the key that writes it; under none that a key id can hold, where its key id holds no key (log 44). -/
def State.sealLine (s : State) (p : Place) : State :=
  match p.space with
  | .device =>
    let k := ((s.keyGenOf p.keyid).map fun g => (p.keyid, g)).getD (64, 0)
    if s.sealOf p.addr = some k then s
    else { s with trust := { s.trust with sealed := (p.addr, k) :: s.trust.sealed.filter fun q => q.1 != p.addr } }
  | _ => s

/-! ### Bytes -/

/-- The memory of a space. -/
def State.memOf (s : State) : Space → Memory
  | .device => s.mem
  | .tier2 => s.companion
  | .scratch gid => ((s.group? gid).map (·.mem)).getD []
def State.setMem (s : State) (sp : Space) (m : Memory) : State :=
  match sp with
  | .device => { s with mem := m }
  | .tier2 => { s with companion := m }
  | .scratch gid => { s with groups := s.groups.map fun g => if g.gid = gid then { g with mem := m } else g }

/-- n undefined bytes (log 3). -/
def freeBytes (fresh n : Nat) : List Byte := (List.range n).map fun k => (Config.freeWord (fresh + k)).extractLsb' 0 8

/-- n bytes of a line, from byte `off` on, as a read through its key returns them. -/
def State.lineBytes (s : State) (p : Place) (off n : Nat) : List Byte :=
  if s.wrongKey p then freeBytes (s.fresh + off) n else (s.memOf p.space).read (p.addr + off) n

/-- A write into a line that decrypts to undefined bytes first makes those bytes the line's content. -/
def State.materialise (s : State) (p : Place) : State :=
  if s.wrongKey p then { s.setMem p.space ((s.memOf p.space).write p.addr (freeBytes s.fresh 128)) with fresh := s.fresh + 128 }
  else s

/-- A read-only cache drops a line (R130, R341). -/
def State.dropRo (s : State) (cluster : Nat) (p : Place) : State :=
  { s with roc := s.roc.filter fun r => !(r.cluster == cluster && decide (r.place.space = p.space) && r.place.addr == p.addr) }

/-- What HBM stores of a line of device memory (R396). -/
def State.storedLine (s : State) (sp : Space) (addr : Nat) : Stored :=
  match s.dirty.find? fun d => decide (d.space = sp) && d.addr == addr with
  | some d => d.old
  | none => match sp with
    | .device => { cells := s.mem.filter fun c => decide (addr ≤ c.1) && decide (c.1 < addr + 128), key := s.sealOf addr }
    | _ => { cells := [], key := none }

/-! ### Lines in L2, and their tags (R138, R418) -/

/-- A cached line is the one of an address. -/
def Cached.isAt (c : Cached) (sp : Space) (addr : Nat) : Bool := decide (c.space = sp) && c.addr == addr

/-- The latest tag of a line: its slice's floor for a line that is allocated afresh. -/
def State.tagOf (s : State) (sp : Space) (addr : Nat) : Nat :=
  match s.cached.find? fun c => c.isAt sp addr with
  | some c => c.tag
  | none => match s.sv.floors with
    | [] => 0
    | fl => assocGet fl (s.sliceOf sp addr) 0

/-- The set of every slice that a line of a device is allocated in, by its share as it stands. -/
def State.setOf (s : State) (vd addr : Nat) : Nat :=
  let l2 := (s.vd vd).l2.toNat
  (bitsOf l2 0 9 + (Config.setHash addr).toNat % 2 ^ bitsOf l2 9 4) % 512

/-- A request of a device allocates a line at its home slice, if it is not there. -/
def State.allocLine (s : State) (vd : Nat) (p : Place) : State :=
  if p.space ≠ .device ∧ p.space ≠ .tier2 ∨ s.cached.any fun c => c.isAt p.space p.addr then s
  else { s with cached := { space := p.space, addr := p.addr, tag := s.tagOf p.space p.addr, vd := vd, set := s.setOf vd p.addr, keyid := p.keyid } :: s.cached }

/-- Keep a cached line's latest tag. -/
def State.setTag (s : State) (sp : Space) (addr tag : Nat) : State :=
  { s with cached := s.cached.map fun c => if c.isAt sp addr then { c with tag := tag } else c }

/-- A line is cached no more. -/
def State.uncache (s : State) (sp : Space) (addr : Nat) : State := { s with cached := s.cached.filter fun c => !c.isAt sp addr }

/-- A line is held dirty at its home slice. -/
def State.isDirty (s : State) (sp : Space) (addr : Nat) : Bool := s.dirty.any fun d => decide (d.space = sp) && d.addr == addr

/-- The line becomes dirty at its home slice, over what HBM stores, and is held under the key id of the write (R404). -/
def State.markDirty (s : State) (vd : Nat) (p : Place) (old : Stored) : State :=
  match p.space with
  | .scratch _ => s
  | sp =>
    let s := s.allocLine vd p
    { s with
      cached := s.cached.map fun c => if c.isAt sp p.addr then { c with keyid := p.keyid } else c
      dirty := ({ space := sp, addr := p.addr, slice := s.sliceOf sp p.addr, keyid := p.keyid, old := old } : Dirty) ::
        s.dirty.filter fun d => !(decide (d.space = sp) && d.addr == p.addr) }

/-- The later of two tags, compared modulo 2^32. -/
def laterTag (a b : Nat) : Nat := if (a + 2 ^ 32 - b % 2 ^ 32) % 2 ^ 32 < 2 ^ 31 then a else b

/-- Assign the next n tags of a line; the first of them is the latest tag plus one. -/
def State.nextTags (s : State) (sp : Space) (addr n : Nat) : State × Nat :=
  let t := s.tagOf sp addr
  let last := (t + n) % 2 ^ 32
  let slice := s.sliceOf sp addr
  ({ s.setTag sp addr last with
     sv := { s.sv with floors := assocSet s.sv.floors slice (laterTag last (assocGet s.sv.floors slice 0)) } },
   (t + 1) % 2 ^ 32)

/-! ### Writes at the ordering point -/

/-- A line that no degraded read can rebuild is poisoned; its stripe's checks, which stay as they stand, serve no more until they are
recomputed (R399). -/
def State.poisonUnread (s : State) (addr : Nat) : State :=
  let s' := if (s.poison? .device addr).isSome then s
    else s.setPoison .device addr (deviceSyndrome 0 (s.lostLines addr).length (s.channel addr (lineIn addr)))
  { s' with sv := { s'.sv with unreliable := (stripeOf addr :: s'.sv.unreliable).eraseDups } }

/-- A line that a partial write reaches and that no read could rebuild is poisoned first, and stays so (R133, R399). -/
def State.poisonLost (s : State) (p : Place) : State :=
  if s.degraded p.space p.addr && s.unrecoverable p.addr then s.poisonUnread p.addr else s

/-- A write to a clear-pending line is to stand, and clears its ZERO mark (R412). -/
def State.noteWritten (s : State) (p : Place) : State :=
  if s.sv.clearing.isEmpty || decide (p.space ≠ .device) || !s.clearPending p.addr then s
  else
    { s with sv := { s.sv with clearing := s.sv.clearing.map fun (c : Clearing) =>
        if 16384 * c.first ≤ p.addr / 128 ∧ p.addr / 128 < 16384 * (c.first + c.count) then { c with written := p.addr / 128 :: c.written } else c } }

/-- Writes (offset, bytes) that cover all 128 bytes of a line. -/
def coversLine (ws : List (Nat × List Byte)) : Bool :=
  (List.range 128).all fun k => ws.any fun w => decide (w.1 ≤ k) && decide (k < w.1 + w.2.length)

/-- A write to an existing line of a place: (offset, bytes) in order; stores to a RETIRED region are discarded (R401),
and a write of the whole line in one request clears poison (R133). -/
def State.writeLine (s : State) (vd : Nat) (p : Place) (ws : List (Nat × List Byte)) (whole : Bool := coversLine ws) : State :=
  if p.space = .device ∧ (s.region (regionOf p.addr)).state = .retired then s
  else
    let old := s.storedLine p.space p.addr
    let s := if whole then s.clearPoison p.space p.addr else (s.poisonLost p).materialise p
    let s := s.noteWritten p
    let s := s.setMem p.space (ws.foldl (fun m w => m.write (p.addr + w.1) w.2) (s.memOf p.space))
    (s.sealLine p).markDirty vd p old

/-- The engine's, launch unit's and event's write of bytes into one line, with its tag. -/
def State.storeLine (s : State) (vd : Nat) (p : Place) (off : Nat) (bs : List Byte) : State :=
  (s.writeLine vd p [(off, bs)]).nextTags p.space p.addr 1 |>.1

end Sys2Proof.Machine
end

