-- ==== Sys2Proof/Machine/Translate.lean ====
section
/-!
DEFINITION. The two stages of translation: first-stage entries and walks, the range table, dual-backed ranges, cached
translations, and page requests (21 R382 to R395).
-/
namespace Sys2Proof.Machine

/-- The kind of access a walk is made for (R388). -/
inductive Access where
  | read | write | fetch
  deriving DecidableEq, Repr

/-- What a translation gives. -/
inductive Walk where
  /-- the line's place with the GPA, and the cached translation formed -/
  | ok (p : Place) (gpa : Nat) (e : Tlb)
  /-- NOTPRESENT at a level, with the entry's GPA -/
  | notPresent (level gpa : Nat)
  /-- PERM of the page -/
  | perm
  /-- PERM of the world, with the HPA of the request that is dropped -/
  | world (hpa : Nat)
  /-- a second-stage miss at a GPA, of a table entry or of the page -/
  | miss (gpa : Nat) (table : Bool)
  deriving DecidableEq, Repr

/-! ### The range table (R385) -/

def rangeGbase (e : BitVec 128) : Nat := bitsOf e.toNat 0 27
def rangeHbase (e : BitVec 128) : Nat := bitsOf e.toNat 32 27
def rangeLen (e : BitVec 128) : Nat := bitsOf e.toNat 64 27
def rangeAllows (e : BitVec 128) : Access → Bool
  | .read => bitOf e.toNat 96
  | .write => bitOf e.toNat 97
  | .fetch => bitOf e.toNat 98
def rangeWorld (e : BitVec 128) : Bool := bitOf e.toNat 101
def rangeKeyid (e : BitVec 128) : Nat := bitsOf e.toNat 102 6

/-- The unit of 2 MiB that range entries and page requests count in. -/
def unit2M : Nat := 2 ^ 21

/-- The lowest-numbered entry that covers a GPA. -/
def VDev.range? (v : VDev) (g : Nat) : Option (BitVec 128) :=
  v.ranges.find? fun e => decide (rangeGbase e ≤ g / unit2M) && decide (g / unit2M < rangeGbase e + rangeLen e)

/-- The number of that entry, as a list that is empty where none covers the GPA. -/
def VDev.rangeNumber (v : VDev) (g : Nat) : List Nat :=
  (v.ranges.findIdx? fun e => decide (rangeGbase e ≤ g / unit2M) && decide (g / unit2M < rangeGbase e + rangeLen e)).toList

/-- The device is secure (R417). -/
def VDev.secure (v : VDev) : Bool := v.pol.getLsbD 3

/-- An answer of the range table (R388). -/
inductive RangeAnswer where
  | ok (hpa keyid : Nat)
  | perm
  | world (hpa : Nat)
  | miss
  deriving DecidableEq, Repr

/-- range(vd, g, kind) of R388. -/
def VDev.range (v : VDev) (g : Nat) (kind : Access) : RangeAnswer :=
  match v.range? g with
  | none => .miss
  | some e =>
    let hpa := rangeHbase e * unit2M + (g - rangeGbase e * unit2M)
    if rangeWorld e && !v.secure then .world hpa
    else if !rangeAllows e kind then .perm
    else .ok hpa (rangeKeyid e)

/-! ### First-stage entries (R382, R384) -/

/-- The size of the table of a level, and of the page or table that an entry of a level names. -/
def tableSize (lvl : Nat) : Nat := if lvl = 3 then 256 else 4096
def pageSize (lvl : Nat) : Nat := if lvl = 2 then unit2M else 65536
/-- The index of a virtual address at a level. -/
def levelIndex (va lvl : Nat) : Nat :=
  match lvl with
  | 0 => bitsOf va 39 9
  | 1 => bitsOf va 30 9
  | 2 => bitsOf va 21 9
  | _ => bitsOf va 16 5

/-- A first-stage entry with P = 1 that is well formed at its level. -/
def entryOk (e lvl : Nat) : Bool :=
  let leaf := bitOf e 1
  let addr := bitsOf e 8 40 * 256
  bitOf e 0 && bitsOf e 48 16 == 0 && bitsOf e 5 3 == 0
    && !(leaf && decide (lvl ≤ 1)) && !(!leaf && lvl == 3)
    && (if leaf then addr % pageSize lvl == 0 else addr % tableSize (lvl + 1) == 0 && bitsOf e 2 3 == 0)

/-- The used publish entry of a GPA, and the HPA of its line in copy 1 (R387). -/
def VDev.dual? (v : VDev) (g : Nat) : Option (Nat × Nat) :=
  (v.pubs.zipIdx.find? fun p => decide (rangeGbase p.1 ≤ g / unit2M) && decide (g / unit2M < rangeGbase p.1 + rangeLen p.1)).map fun p =>
    (p.2, rangeHbase p.1 * unit2M + (g / 128 * 128 - rangeGbase p.1 * unit2M))

/-- CUR of a publish entry. -/
def VDev.cur (v : VDev) (n : Nat) : Bool := ((v.pubs[n]?).getD 0#128).getLsbD 96

/-- The place whose bytes an access of a translated line reaches: the published copy, or for a shadow write the other. -/
def State.served (s : State) (vd : Nat) (p : Place) (shadow : Bool) : Place :=
  match p.dual with
  | none => p
  | some (n, pair) => if (s.vd vd).cur n != shadow then { p with addr := pair } else p

/-- The interleave entry of the HPA that serves an access is secure and the device is not (R432). -/
def State.worldDenies (s : State) (vd : Nat) (p : Place) (shadow : Bool := false) : Bool :=
  decide (p.space = .device) && (s.region (regionOf (s.served vd p shadow).addr)).world && !(s.vd vd).secure

/-- The place of a first-stage entry at a GPA and its HPA: an access of the pair where the range is dual-backed (R387; log 108). -/
def VDev.tablePlace (v : VDev) (g hpa keyid : Nat) : Place :=
  { space := .device, addr := hpa / 128 * 128, keyid := keyid, dual := v.dual? g }

/-- The 8 bytes of a first-stage entry; none from a line that cannot be read (R388). -/
def State.tableEntry (s : State) (vd : Nat) (p : Place) (at_ : Nat) : Option Nat :=
  let p := s.served vd p false
  if (s.readSyndrome p).isSome then none else some (leValue (s.lineBytes p at_ 8))

/-- The levels of a walk that remain, from table `t` at level `lvl`, whose HPA and key id a walk cache may hold, with the numbers of
the range entries used so far (R388, R389). -/
def State.walkFrom (s : State) (vd va : Nat) (kind : Access) : Nat → List Nat → Nat → Nat → Option (Nat × Nat) → Walk
  | 0, _, _, _, _ => .perm
  | fuel + 1, via, lvl, t, held =>
    let v := s.vd vd
    let g := t + 8 * levelIndex va lvl
    let via := if held.isSome then via else via ++ v.rangeNumber g
    match (match held with | some h => .ok (h.1 + 8 * levelIndex va lvl) h.2 | none => v.range g .read : RangeAnswer) with
    | .miss => .miss g true
    | .perm => .perm
    | .world hpa => .world hpa
    | .ok h keyid =>
      let p := v.tablePlace g h keyid
      if s.worldDenies vd p then .world ((s.served vd p false).addr + h % 128) else
      match s.tableEntry vd p (h % 128) with
      | none => .notPresent lvl g
      | some e =>
        if !entryOk e lvl then .notPresent lvl g
        else if bitOf e 1 then
          if (decide (kind = .write) && !bitOf e 2) || (decide (kind = .fetch) && !bitOf e 3) then .perm
          else
            let size := pageSize lvl
            let page := bitsOf e 8 40 * 256
            let gpa := page + va % size
            match v.range gpa kind with
            | .miss => .miss gpa false
            | .perm => .perm
            | .world hpa => .world hpa
            | .ok hpa key =>
              let t2 := bitOf e 4
              let entry := (v.range? gpa).getD 0#128
              let allows := rangeAllows entry
              .ok { space := if t2 then .tier2 else .device, addr := hpa / 128 * 128, keyid := key,
                    dual := if t2 then none else v.dual? gpa } gpa
                { at_ := 0, vd := vd, va := va / size * size, size := size, gpa := page, hpa := hpa - va % size, r := allows .read,
                  w := bitOf e 2 && allows .write, x := bitOf e 3 && allows .fetch, keyid := key, t2 := t2,
                  world := rangeWorld entry, via := (via ++ v.rangeNumber gpa).eraseDups }
        else s.walkFrom vd va kind fuel via (lvl + 1) (bitsOf e 8 40 * 256) none

/-- The GPA of a device's level-0 table (R383). -/
def VDev.root (v : VDev) : Nat := v.fsroot0.toNat / 4096 * 4096 + 2 ^ 32 * (v.fsroot1.toNat % 65536)

/-- An access is in flight, in the queue of a matrix unit, or held for a page request. An access whose first request reads
an object stays so until the requests that follow are performed. -/
def State.outstanding (s : State) (id : Nat) : Bool :=
  s.reqs.any (fun r => r.root == id) || (s.groups.any fun g => g.munit.queue.any fun c => c.acc == id) ||
  s.vds.any fun v => v.pageReqs.any fun q => q.waiters.any fun w => match w with | .line r _ => r.root == id | _ => false

/-- A written root is not used yet: accesses that used the translations which the write discarded are in flight (R383). -/
def State.rootPending (s : State) (vd : Nat) : Option Nat :=
  match (s.vd vd).oldRoot with
  | some (root, ids) => if ids.any s.outstanding then some root else none
  | none => none

/-- A fresh walk for a virtual address (R388). -/
def State.walk (s : State) (vd va : Nat) (kind : Access) : Walk :=
  s.walkFrom vd va kind 4 [] 0 ((s.rootPending vd).getD (s.vd vd).root) none

/-- The table pointers that a walk passes, from table `t` at level `lvl` on, each after its range translation (R389). -/
def State.pointersFrom (s : State) (at_ vd va : Nat) : Nat → List Nat → Nat → Nat → List TablePtr
  | 0, _, _, _ => []
  | fuel + 1, via, lvl, t =>
    let v := s.vd vd
    let g := t + 8 * levelIndex va lvl
    let via := via ++ v.rangeNumber g
    match v.range g .read with
    | .ok h keyid =>
      match s.tableEntry vd (v.tablePlace g h keyid) (h % 128) with
      | none => []
      | some e =>
        let table := bitsOf e 8 40 * 256
        if !entryOk e lvl || bitOf e 1 then []
        else
          match v.range table .read with
          | .ok hpa key =>
            let size := match lvl with | 0 => 2 ^ 39 | 1 => 2 ^ 30 | _ => 2 ^ 21
            { at_ := at_, vd := vd, va := va / size * size, size := size, level := lvl + 1, table := table, hpa := hpa, keyid := key,
              world := rangeWorld ((v.range? table).getD 0#128), via := (via ++ v.rangeNumber table).eraseDups }
              :: s.pointersFrom at_ vd va fuel via (lvl + 1) table
          | _ => []
    | _ => []

/-- The TLBs and walk caches that an access may use: those of its cluster and its die; for an engine or a unit, number 216, those of the
dies (R389; log 19). -/
def tlbsOf (c : Nat) : List Nat := if c < 216 then [c, 216 + dieOf c] else [216, 217, 218]

/-- The translations that the caches offer for an access: those that the TLBs hold, and walks from a table pointer that a walk cache
holds; what was formed through an entry of the secure world serves only a secure device (R389, R432). -/
def State.cachedWalks (s : State) (c vd va : Nat) (kind : Access) : List Walk :=
  let open_ (at_ : Nat) (world : Bool) : Bool := (tlbsOf c).contains at_ && !(world && !(s.vd vd).secure)
  ((s.tlb.filter fun e => e.vd == vd && e.va == va / e.size * e.size && open_ e.at_ e.world
      && (match kind with | .read => e.r | .write => e.w | .fetch => e.x)).map fun e =>
    let hpa := e.hpa + va % e.size
    .ok { space := if e.t2 then .tier2 else .device, addr := hpa / 128 * 128, keyid := e.keyid,
          dual := if e.t2 then none else (s.vd vd).dual? (e.gpa + va % e.size) } (e.gpa + va % e.size) e) ++
  (s.walkCache.filter fun p => p.vd == vd && p.va == va / p.size * p.size && open_ p.at_ p.world).map fun p =>
    s.walkFrom vd va kind (4 - p.level) p.via p.level p.table (some (p.hpa, p.keyid))

/-- Translate: a fresh walk, or what the caches offer where the tape of choices takes one of it (R389, R390, R395; log 19). -/
def State.translate (s : State) (c vd va : Nat) (kind : Access) : Walk :=
  match s.oracle.headD 0 with
  | 0 => s.walk vd va kind
  | k + 1 => ((s.cachedWalks c vd va kind)[k]?).getD (s.walk vd va kind)

/-- Keep a translation in its TLB, of 64 entries in a cluster and 8,192 in a die; in a full one the choice names the entry that goes, the
new one among them (R389). -/
def State.keepEntry (s : State) (e : Tlb) (choice : Nat) : State :=
  let mine := s.tlb.filter fun x => x.at_ == e.at_
  if s.tlb.contains e then s
  else if mine.length < (if e.at_ < 216 then 64 else 8192) then { s with tlb := e :: s.tlb }
  else { s with tlb := (e :: s.tlb).erase (((e :: mine)[choice % (mine.length + 1)]?).getD e) }

/-- Keep what a translation of an address has formed: the translation in the TLBs of the cluster and its die, and the table pointers of a
fresh walk in the die's walk cache. Nothing is kept of a root that is to be used no more (R383). -/
def State.keepTlb (s : State) (c vd va : Nat) (kind : Access) (w : Walk) : State :=
  match w with
  | .ok _ _ e =>
    if (s.rootPending vd).isSome then s
    else
      let choice := s.oracle.headD 0
      let fresh := choice = 0 ∨ (s.cachedWalks c vd va kind).length < choice
      let ptrs := if fresh then (s.pointersFrom (216 + dieOf c) vd va 3 [] 0 (s.vd vd).root).filter fun p => !s.walkCache.contains p else []
      (tlbsOf c).foldl (fun (s : State) n => s.keepEntry { e with at_ := n } choice) { s with walkCache := ptrs ++ s.walkCache }
  | _ => s

/-- The range entries that a translation passed through. -/
def Walk.via : Walk → List Nat
  | .ok _ _ e => e.via
  | _ => []

/-- Take the next choice from the tape. -/
def State.popChoice (s : State) : State := { s with oracle := s.oracle.tail }

/-- The state whose tape stands `n` choices further. -/
def State.choicesOn (s : State) (n : Nat) : State := { s with oracle := s.oracle.drop n }

/-- Discard the cached translations of a device, of one page or all (R339, R383, R386). -/
def State.dropTlb (s : State) (vd : Nat) (page : Option Nat) : State :=
  let gone (d a n : Nat) : Bool := d == vd && (match page with
    | none => true
    | some va => decide (a ≤ va) && decide (va < a + n))
  { s with tlb := s.tlb.filter fun e => !gone e.vd e.va e.size, walkCache := s.walkCache.filter fun p => !gone p.vd p.va p.size }

/-! ### The log of world violations (R432) -/

/-- Log a dropped request: at most 64 entries, the oldest overwritten. -/
def State.logWorld (s : State) (e : WlogEntry) : State :=
  let full := decide (64 ≤ s.trust.wlog.length)
  { s with trust := { s.trust with
      wlog := (if full then s.trust.wlog.tail else s.trust.wlog) ++ [e],
      wlogLost := if full then min (s.trust.wlogLost + 1) 65535 else s.trust.wlogLost } }

def Access.code : Access → Nat
  | .read => 0 | .write => 1 | .fetch => 2

/-! ### Page requests (R392, R393) -/

/-- The image of a page request. -/
def pageImage (src va gpa kind : Nat) (wr : Bool) (die rid : Nat) : List Byte :=
  leBytes 32 (rid % 65536 + die * 2 ^ 16 + (if wr then 2 ^ 24 else 0) + kind * 2 ^ 25 + gpa / 128 * 128 * 2 ^ 32
    + va / 128 * 128 * 2 ^ 80 + src * 2 ^ 128)

/-- The image with WR set. -/
def imageWr (b : List Byte) : List Byte := b.set 3 ((b.getD 3 0#8) ||| 1#8)

/-- Room in the page-request ring. -/
def VDev.prqRoom (v : VDev) : Bool := decide ((v.prqw - v.prqr).toNat < 2 ^ bitsOf v.rqcfg.toNat 0 4)
def VDev.base (w : List Word) : Nat := (w.headD 0#32).toNat + 2 ^ 32 * ((w.getD 1 0#32).toNat % 65536)

/-- Write the requests that wait for room to the ring in host memory, oldest first, and raise the interrupt. -/
def State.writePageReqs (s : State) (vd : Nat) : Nat → State
  | 0 => s
  | fuel + 1 =>
    let v := s.vd vd
    match v.pageReqs.find? fun r => !r.written with
    | none => s
    | some r =>
      if !v.prqRoom then s
      else
        let slot := v.prqw.toNat % 2 ^ bitsOf v.rqcfg.toNat 0 4
        let s := { s with host := s.host.write (VDev.base v.prq + 32 * slot) r.image }
        (s.setVd vd { v with
          pageReqs := v.pageReqs.map fun q => if q.rid = r.rid ∧ q.die = r.die then { q with written := true } else q,
          prqw := v.prqw + 1#32, irq := true }).writePageReqs vd fuel

/-- A request id that no outstanding request of the die has, of any device: from the device's next one on (R392). -/
def State.newRid (s : State) (vd die : Nat) : Nat :=
  let all := (s.vds.flatMap (·.pageReqs)).filter (·.die == die)
  (((List.range (all.length + 1)).map fun k => ((s.vd vd).nextRid + k) % 65536).find? fun n => !all.any (·.rid == n)).getD (s.vd vd).nextRid

/-- A waiter misses the second stage at a GPA: it joins the die's request for that unit, or makes a new one; one not yet written reports a joining write in WR. -/
def State.pageMiss (s : State) (vd die : Nat) (src va gpa kind : Nat) (wr : Bool) (w : List Waiter) : State :=
  let v := s.vd vd
  let unit := gpa / unit2M
  if v.pageReqs.any fun r => r.die == die && r.unit == unit then
    s.setVd vd { v with pageReqs := v.pageReqs.map fun r =>
      if r.die = die ∧ r.unit = unit then { r with
        waiters := r.waiters ++ w, image := if wr && !r.written then imageWr r.image else r.image } else r }
  else
    let rid := s.newRid vd die
    let r : PageReq := { rid := rid, die := die, unit := unit, image := pageImage src va gpa kind wr die rid,
                         written := false, waiters := w }
    (s.setVd vd { v with pageReqs := v.pageReqs ++ [r], nextRid := (rid + 1) % 65536 }).writePageReqs vd
      (v.pageReqs.length + 1)

/-! ### Reads and writes by engines, launch units and completions -/

/-- Why an access by address failed. -/
inductive Bad where
  /-- a first-stage, permission or world failure; the HPA of a request to be logged -/
  | fault (world : Option Nat)
  /-- the line cannot be read -/
  | poison (syn : Word)
  | miss (gpa : Nat) (table : Bool)
  deriving DecidableEq, Repr

/-- The place of the line of a virtual address for a unit's access; `shadow` for a write of the copy that is not published. -/
def State.place (s : State) (vd va : Nat) (kind : Access) (shadow : Bool := false) : Except Bad Place :=
  if 2 ^ 48 ≤ va then .error (.fault none)
  else
    match s.translate 216 vd va kind with
    | .ok p _ _ => if s.worldDenies vd p shadow then .error (.fault (some ((s.served vd p shadow).addr + va % 128))) else .ok p
    | .notPresent _ _ => .error (.fault none)
    | .perm => .error (.fault none)
    | .world hpa => .error (.fault (some hpa))
    | .miss g t => .error (.miss g t)

/-- The pieces of [va, va + n) that lie in one line each: address and length. -/
def linePieces (va n : Nat) : List (Nat × Nat) :=
  (List.range ((va + n + 127) / 128 - va / 128)).map fun k =>
    let a := max va ((va / 128 + k) * 128)
    (a, min (va + n) ((va / 128 + k + 1) * 128) - a)

/-- Read bytes at a virtual address, line by line. -/
def State.readVa (s : State) (vd va n : Nat) : Except Bad (List Byte) :=
  (linePieces va n).foldl (fun acc q =>
    match acc with
    | .error e => .error e
    | .ok bs =>
      match s.place vd q.1 .read with
      | .error e => .error e
      | .ok p =>
        let p := s.served vd p false
        match s.readSyndrome p with
        | some w => .error (.poison w)
        | none => .ok (bs ++ s.lineBytes p (q.1 % 128) q.2)) (.ok [])

/-! ### Queue descriptors (R158, R159) -/

/-- A difference modulo 2^32. -/
def sub32 (a b : Nat) : Nat := (a + 2 ^ 32 - b % 2 ^ 32) % 2 ^ 32

structure QDesc where
  qbase : Nat
  log2n : Nat
  scope : Nat
  skind : Nat
  sid : Nat
  widx : Nat
  ridx : Nat
  qstate : Nat
  errcnt : Nat
  mbz : Bool
  deriving DecidableEq, Repr

def QDesc.ofBytes (bs : List Byte) : QDesc :=
  let v := leValue bs
  { qbase := bitsOf v 0 48, log2n := bitsOf v 48 4, scope := bitsOf v 52 3, skind := bitsOf v 55 2, sid := bitsOf v 64 16,
    widx := bitsOf v 96 32, ridx := bitsOf v 128 32, qstate := bitsOf v 160 8, errcnt := bitsOf v 176 16,
    mbz := bitsOf v 57 7 == 0 && bitsOf v 80 16 == 0 && bitsOf v 168 8 == 0 && bitsOf v 192 320 == 0 }

/-- The descriptor holds no set MBZ bit and no reserved value (R158, R313). -/
def QDesc.ok (d : QDesc) : Bool :=
  d.mbz && decide (4 ≤ d.log2n) && decide (d.skind ≤ 2) && decide (d.scope ≤ 6) && decide (d.qstate ≤ 5)

/-- SID names a server of SKIND (R158). -/
def QDesc.sidOk (d : QDesc) : Bool :=
  match d.skind with
  | 0 => d.sid == 0xFFFF || (decide (d.sid / 4 < 216) && decide (d.sid < 1024))
  | 1 => decide (d.sid ≤ 2)
  | _ => decide (d.sid ≤ 7)

/-- The checks of R159. -/
def QDesc.servable (d : QDesc) (ceiling : Nat) : Bool :=
  d.ok && d.qbase % 64 == 0 && d.sidOk && decide (d.scope ≤ ceiling)

/-- Slot j (R160). -/
def QDesc.slotAt (d : QDesc) (j : Nat) : Nat := d.qbase + 64 * (j % 2 ^ d.log2n)
/-- The free-running number under which slot j is consumed next. -/
def QDesc.turn (d : QDesc) (j : Nat) : Nat := (d.ridx + sub32 j d.ridx % 2 ^ d.log2n) % 2 ^ 32
def QDesc.full (d : QDesc) : Bool := decide (2 ^ d.log2n ≤ sub32 d.widx d.ridx)

def State.desc (s : State) (vd addr : Nat) : Except Bad QDesc := (s.readVa vd addr 64).map QDesc.ofBytes

/-! ### Wake writes (R435) -/

/-- A wake write reaches a device that is MOORED or MOORING. -/
def State.wakeDevice (s : State) (vd : Nat) : State :=
  let v := s.vd vd
  if v.moor = .moored ∨ v.moor = .mooring then s.setVd vd { v with moor := .waking, moorReq := false } else s

/-- A line holds a slot of a queue of a device. Which queues a device has the machine knows from when a server first looks at them
(log 119). -/
def State.slotAtLine (s : State) (vd : Nat) (p : Place) : Bool :=
  s.queues.any fun x => x.id.vd == vd &&
    match s.desc vd x.id.desc with
    | .error _ => false
    | .ok d => (List.range (2 ^ d.log2n)).any fun j =>
        match s.place vd (d.slotAt j) .write with
        | .ok p' => let p' := s.served vd p' false; decide (p'.space = p.space) && p'.addr == p.addr
        | .error _ => false

/-- A write to a slot of a queue of a device that is MOORED or MOORING wakes the device, whoever makes it. -/
def State.wakeBySlot (s : State) (p : Place) : State :=
  if s.vds.all fun v => decide (v.moor = .running) then s
  else ((List.range 64).filter fun vd => decide ((s.vd vd).moor ≠ .running) && s.slotAtLine vd p).foldl State.wakeDevice s

/-- Write bytes at a virtual address, line by line; `shadow` for a shadow-destination copy. -/
def State.writeVa (s : State) (vd va : Nat) (bs : List Byte) (shadow : Bool := false) : Except Bad State :=
  (linePieces va bs.length).foldl (fun acc q =>
    match acc with
    | .error e => .error e
    | .ok s =>
      match s.place vd q.1 .write shadow with
      | .error e => .error e
      | .ok p =>
        let p := s.served vd p shadow
        .ok ((s.wakeBySlot p).storeLine vd p (q.1 % 128) ((bs.drop (q.1 - va)).take q.2))) (.ok s)

/-- A little-endian value at a virtual address. -/
def State.valueVa (s : State) (vd va n : Nat) : Except Bad Nat := (s.readVa vd va n).map leValue

end Sys2Proof.Machine
end

