-- ==== Sys2Proof/Machine/Rings.lean ====
section
/-!
DEFINITION. Ring objects, their slots and statuses, queue descriptors (07 R158 to R163, R180 to R184), and the fragments
that wait on a ring (15 R317).
-/
namespace Sys2Proof.Machine

/-- A ring object as it is read (R180). -/
structure Ring where
  base : Nat
  log2 : Nat
  scope : Nat
  count : Nat
  wptr : Nat
  cptr : Nat
  rptr : Nat
  mbz : Bool
  deriving DecidableEq, Repr

def Ring.ofBytes (bs : List Byte) : Ring :=
  let v := leValue bs
  { base := bitsOf v 0 48, log2 := bitsOf v 48 3 + 8 * bitsOf v 51 1, scope := bitsOf v 52 3, count := bitsOf v 64 16,
    wptr := bitsOf v 96 32, cptr := bitsOf v 128 32, rptr := bitsOf v 160 32,
    mbz := bitsOf v 55 9 == 0 && bitsOf v 80 16 == 0 && bitsOf v 192 64 == 0 }

/-- Offset of slot j's data, and of its status, from the ring's base address (R180). -/
def Ring.dataAt (r : Ring) (j : Nat) : Nat := r.base + 2 ^ r.log2 * (j % r.count)
def Ring.statusAt (r : Ring) (j : Nat) : Nat := r.base + r.count * 2 ^ r.log2 + 32 * (j % r.count)

/-- A well-formed ring object; `extent` is the size in bytes of the window that holds it (R180). -/
def Ring.ok (r : Ring) (extent : Option Nat) : Bool :=
  r.mbz && decide (1 ≤ r.count) && decide (4 ≤ r.log2) && decide (r.scope ≤ 6) && r.base % 2 ^ r.log2 == 0 &&
  (match extent with
    | none => true
    | some e => decide (r.base + r.count * (2 ^ r.log2 + 32) ≤ e))


/-- A window of a group. -/
def Group.window? (g : Group) (n : Nat) : Option Window := g.windows.find? fun w => w.num == n
def Window.bytes (w : Window) : Nat := w.extent * 2 ^ w.log2sz

/-- The device of a queue or ring and its scope ceiling (R142, R417). -/
def VDev.ceiling (v : VDev) : Nat := v.pol.toNat % 8

/-! ### Access to a ring, in memory or in a window -/

/-- The scratchpad words of a byte range that are poisoned. -/
def Group.poisonIn (g : Group) (off n : Nat) : Option Word :=
  (g.memPoison.find? fun p => decide (off < p.1 + 4) && decide (p.1 < off + n)).map (·.2)

/-- Write bytes of a group's scratchpad at several places, as one write: words that it covers whole lose their poison (R134). -/
def Group.storeAll (g : Group) (ws : List (Nat × List Byte)) : Group :=
  let covers (p : Nat) : Bool := (List.range 4).all fun k => ws.any fun w => decide (w.1 ≤ p + k) && decide (p + k < w.1 + w.2.length)
  { g with mem := ws.foldl (fun m w => Memory.write m w.1 w.2) g.mem,
           memPoison := if g.memPoison.isEmpty then [] else g.memPoison.filter fun p => !covers p.1 }

/-- Write bytes at one place. -/
def Group.store (g : Group) (off : Nat) (bs : List Byte) : Group := g.storeAll [(off, bs)]

/-- The banks of a device's share on a cluster, ascending (R415, R129). -/
def State.shareBanks (s : State) (vd cluster : Nat) : List Nat :=
  let c := s.cluster cluster
  let count (k : Nat) : Nat := bitsOf c.spb.toNat (6 * k) 6
  (List.range 4).flatMap fun k =>
    if c.holder k = some vd then (List.range (count k)).map (((List.range k).map count).foldl (· + ·) 0 + ·) else []

/-- The bank of a byte of a group's scratchpad. -/
def State.bankOf (s : State) (g : Group) (addr : Nat) : Nat :=
  let banks := s.shareBanks g.vd g.cluster
  banks.getD ((g.base + addr) / 4 % max banks.length 1) 0

/-- Assign the next tag of a scratchpad word's block. -/
def State.scratchTag (s : State) (gid addr : Nat) : State × Nat :=
  match s.group? gid with
  | none => (s, 0)
  | some g =>
    let bank := s.bankOf g addr
    let key := addr / 128 * 64 + bank
    let slot := 384 + 48 * g.cluster + bank
    let floor := assocGet s.sv.floors slot 0
    let tag := (assocGet g.memTags key floor + 1) % 2 ^ 32
    let s := s.setGroup { g with memTags := assocSet g.memTags key tag }
    ({ s with sv := { s.sv with floors := assocSet s.sv.floors slot (laterTag tag floor) } }, tag)

/-- The words of a byte range of scratchpad. -/
def wordsIn (off n : Nat) : List Nat := (List.range ((off + n + 3) / 4 - off / 4)).map fun k => 4 * (off / 4 + k)

/-- A write of a unit into a group's scratchpad: each word's block takes its next tag (R138). -/
def State.scratchStores (s : State) (gid : Nat) (ws : List (Nat × List Byte)) : State :=
  match s.group? gid with
  | none => s
  | some g => (ws.flatMap fun w => wordsIn w.1 w.2.length).foldl (fun s a => (s.scratchTag gid a).1) (s.setGroup (g.storeAll ws))
def State.scratchStore (s : State) (gid off : Nat) (bs : List Byte) : State := s.scratchStores gid [(off, bs)]

/-- Read n bytes at an address of the ring's space: a virtual address, or an offset in its window. -/
def State.ringRead (s : State) (r : RingSlot) (a n : Nat) : Except Bad (List Byte) :=
  match r.window with
  | none => s.readVa r.vd a n
  | some (gid, w) =>
    match (s.group? gid).bind fun g => (g.window? w).map fun x => (g, x) with
    | none => .error (.fault none)
    | some (g, x) =>
      match g.poisonIn (x.offset + a) n with
      | some syn => .error (.poison syn)
      | none => .ok (Memory.read g.mem (x.offset + a) n)

def State.ringWrite (s : State) (r : RingSlot) (a : Nat) (bs : List Byte) : Except Bad State :=
  match r.window with
  | none => s.writeVa r.vd a bs
  | some (gid, w) =>
    match (s.group? gid).bind fun g => (g.window? w).map fun x => (g, x) with
    | none => .error (.fault none)
    | some (_, x) => .ok (s.scratchStore gid (x.offset + a) bs)

/-- The address of the ring object in its space: offset 0 of a window. -/
def RingSlot.at_ (r : RingSlot) : Nat := if r.window.isNone then r.addr else 0

/-- Read a ring object. -/
def State.ring (s : State) (r : RingSlot) : Except Bad Ring := (s.ringRead r r.at_ 32).map Ring.ofBytes

/-- The size of the window that holds a ring. -/
def State.ringExtent (s : State) (r : RingSlot) : Option Nat :=
  r.window.bind fun p => ((s.group? p.1).bind fun g => g.window? p.2).map (·.bytes)

/-- The ring is well formed and its scope is within the ceiling. -/
def State.ringUsable (s : State) (r : RingSlot) (g : Ring) : Bool :=
  g.ok (s.ringExtent r) && decide (g.scope ≤ (s.vd r.vd).ceiling)

/-- An access that failed: why, its address, and whether it was a write. -/
abbrev Failed := Bad × Nat × Bool

/-- Take slot WPTR of a usable ring (R182): none when it is full. PENDING and PROMISE are written; when the packet is
expected to complete is free (log 14). -/
def State.takeSlot (s : State) (r : RingSlot) : Except Failed (Option (State × RingSlot)) :=
  match s.ring r with
  | .error e => .error (e, r.at_, false)
  | .ok g =>
    if g.count ≤ sub32 g.wptr g.rptr then .ok none
    else
      let promise := leBytes 4 (Config.freeWord s.fresh).toNat
      match (({ s with fresh := s.fresh + 1 }.ringWrite r (r.at_ + 12) (leBytes 4 ((g.wptr + 1) % 2 ^ 32))).bind fun s =>
          s.ringWrite r (g.statusAt g.wptr) (promise ++ [1#8])) with
      | .error e => .error (e, g.statusAt g.wptr, true)
      | .ok s => .ok (some (s, { r with slot := g.wptr }))

/-- Status codes (R181). -/
def stPENDING : Nat := 0x01
def stDONE : Nat := 0x02
def stDONEF : Nat := 0x03
def stBADHANDLE : Nat := 0x10
def stBADFMT : Nat := 0x11
def stBADSIZE : Nat := 0x12
def stBADPKT : Nat := 0x13
def stFAULT : Nat := 0x14
def stSCOPE : Nat := 0x15
def stBADDST : Nat := 0x16
def stENDED : Nat := 0x17

/-- CPTR after the slots that directly follow it have completed (R182), and the access that failed at a status that could not be read,
which ends the run. -/
def State.cptrAfter (s : State) (r : RingSlot) (g : Ring) : Nat → Nat → Nat × Option Failed
  | 0, c => (c, none)
  | fuel + 1, c =>
    if c = g.wptr then (c, none)
    else
      match s.ringRead r (g.statusAt c + 4) 1 with
      | .ok [b] => if b.toNat = stPENDING then (c, none) else s.cptrAfter r g fuel ((c + 1) % 2 ^ 32)
      | .error e => (c, some (e, g.statusAt c, false))
      | .ok _ => (c, none)

/-- Where the lines of some virtual addresses lie: those of a pair at copy 0, whose home serves them (R387). -/
def State.linesOf (s : State) (vd : Nat) (vas : List Nat) : List Place :=
  ((vas.map (· / 128 * 128)).eraseDups).filterMap fun va =>
    match s.place vd va .read, s.place vd va .write with
    | .ok p, _ | _, .ok p => some p
    | _, _ => none

/-- The lines of the tables that the walk of an address reads. -/
def State.tableLines (s : State) (vd va : Nat) : Nat → Nat → Nat → List Place
  | 0, _, _ => []
  | fuel + 1, lvl, t =>
    let v := s.vd vd
    let g := t + 8 * levelIndex va lvl
    match v.range g .read with
    | .ok h keyid =>
      let p := v.tablePlace g h keyid
      s.served vd p false :: (match s.tableEntry vd p (h % 128) with
        | some e => if !entryOk e lvl || bitOf e 1 then [] else s.tableLines vd va fuel (lvl + 1) (bitsOf e 8 40 * 256)
        | none => [])
    | _ => []
def State.walkLines (s : State) (vd va : Nat) : List Place := s.tableLines vd va 4 0 ((s.rootPending vd).getD (s.vd vd).root)

/-- The places whose bytes some virtual addresses, and their walks, reach (R388, R402). -/
def State.reached (s : State) (vd : Nat) (vas : List Nat) : List Place :=
  ((s.linesOf vd vas).map fun p => s.served vd p false) ++ ((vas.map (· / 128 * 128)).eraseDups).flatMap (s.walkLines vd)

/-- No line waits: no stripe is locked or lacks a line, and no channel is in self-refresh. -/
def State.homesFree (s : State) : Bool := s.sv.locked.isEmpty && s.sv.selfRefresh.isEmpty && s.unhurt

/-- Lines that a unit is to reach are all free. -/
def State.linesFree (s : State) (vd : Nat) (vas : List Nat) : Bool := s.homesFree || !((s.reached vd vas).any s.lineBlocked)

/-- The ring object of a slot, where its line does not wait at its home (R402). -/
def State.ringFree (s : State) (r : RingSlot) : Bool := r.window.isSome || s.linesFree r.vd [r.addr]

/-- A fragment waits in an AWAITF whose ring's CPTR − RPTR has reached its count (R317): the operation, and the ring's
scope. -/
def State.awaitMet (s : State) (t : Team) (f : Frag) : Option (Nat × Nat) :=
  match f.park with
  | .awaitf op =>
    match t.outs.find? fun o => o.id == op with
    | some o =>
      match o.kind with
      | .awaitf n r =>
        match s.ring r with
        | .ok g => if n ≤ sub32 g.cptr g.rptr ∧ s.ringFree r then some (op, g.scope) else none
        | .error _ => none
      | _ => none
    | none => none
  | _ => none

/-- The read-only cache of a cluster is emptied by an acquire of cluster scope or wider (R131, R144). -/
def State.acquireAt (s : State) (cluster scope : Nat) : State :=
  if scope < 2 then s else { s with roc := s.roc.filter fun r => r.cluster != cluster }

/-- The AWAITF that a fragment is parked in is met: the park ends and the operation returns. A mark of the AWAITF parks
the fragment next. -/
def State.wakeTeam (s : State) (t : Team) : Team :=
  t.frags.foldl (fun t f =>
    match s.awaitMet t f with
    | some (op, _) =>
      ({ t with outs := t.outs.filter fun x => x.id != op }).setFrag
        { f with park := if f.marked then .marker else if f.again then .drain else .none, marked := false, again := false, since := s.clock }
    | none => t) t

/-- Wake the fragments whose AWAITF is met; each is an acquire at its ring's scope (R148). One of a group that is off its cluster
acquires when the group is back (R149, R317). -/
def State.wakeAwaits (s : State) : State :=
  let met := (s.groups.filter fun g => g.phase.placed).flatMap fun g => g.allTeams.flatMap fun t => t.frags.filterMap fun f =>
    (s.awaitMet t f).map fun p => (g.cluster, p.2)
  if met.isEmpty then s
  else met.foldl (fun s p => s.acquireAt p.1 p.2)
    { s with groups := s.groups.map fun g =>
        if g.phase.placed then { g with teams := g.teams.map s.wakeTeam, core := g.core.map s.wakeTeam } else g }

/-! ### Servers (R158, R159) -/

/-- The number of a queue's server: while its group is saved, the engine that runs the packets it has started (log 50). -/
def unitNo (q : QueueId) : Nat := q.unit % 216

/-- The log entry of a server's dropped request (R432). -/
def State.logEngine (s : State) (q : QueueId) (hpa : Nat) (wr : Bool) : State :=
  s.logWorld { hpa := hpa, src := 4 * unitNo q + q.ctx, kind := if wr then 1 else 0, engine := true, dev := q.vd }

/-- Log a server's access that failed, if it was dropped for its world (R388). -/
def State.logBad (s : State) (q : QueueId) (wr : Bool) : Bad → State
  | .fault (some hpa) => s.logEngine q hpa wr
  | _ => s

/-- The die that issues a server's page requests (R392); a peer port, on the I/O die, uses die 0 (log 33). -/
def serverDie (q : QueueId) : Nat :=
  match q.kind with
  | .engine => dieOf (unitNo q)
  | .launchUnit => q.unit
  | .peerPort => 0

/-- A page request of a device has a waiter already. -/
def State.awaited (s : State) (vd : Nat) (w : Waiter) : Bool := (s.vd vd).pageReqs.any fun r => r.waiters.contains w

/-- A server's own write of its descriptor misses the second stage: a waiter repeats it at the reply (R392). -/
def State.descMiss (s : State) (q : QueueId) (off gpa : Nat) (table write : Bool) (w : Waiter) : State :=
  s.pageMiss q.vd (serverDie q) 0xFFFF (q.desc + off) gpa (if table then 1 else 3) write [w]

/-- The server writes the QSTATE that it holds, where the descriptor's differs. -/
def State.writeQstate (s : State) (q : QueueId) (n : Nat) : State :=
  if (match s.desc q.vd q.desc with | .ok d => d.qstate == n | .error _ => false) then s
  else
    match s.writeVa q.vd (q.desc + 20) [BitVec.ofNat 8 n] with
    | .ok s => s
    | .error (.miss g t) => if s.awaited q.vd (.qstate q) then s else s.descMiss q 20 g t true (.qstate q)
    | .error b => s.logBad q true b

/-- The server sets QSTATE. -/
def State.setQstate (s : State) (q : QueueId) (n : Nat) : State :=
  (match s.queue? q with
    | some x => if x.qstate = n then s else s.setQueue { x with qstate := n }
    | none => s).writeQstate q n

/-- ERRCNT of a queue's descriptor counts a packet that has no ring to report to (R163); it wraps. Where the descriptor misses the
second stage it is counted at the reply; one whose line cannot be read holds no count. -/
def State.countError (s : State) (q : QueueId) : State :=
  match s.desc q.vd q.desc with
  | .ok d =>
    match s.writeVa q.vd (q.desc + 22) (leBytes 2 ((d.errcnt + 1) % 65536)) with
    | .ok s => s
    | .error (.miss g t) => s.descMiss q 22 g t true (.count q)
    | .error b => s.logBad q true b
  | .error (.miss g t) => s.descMiss q 0 g t true (.count q)
  | .error b => s.logBad q false b

/-! ### Reports (R149, R181, R182) -/

/-- Write a slot's status (R181). PROMISE stands. -/
def State.writeStatus (s : State) (r : RingSlot) (code flags tag done fva : Nat) : Except Failed State :=
  match s.ring r with
  | .error e => .error (e, r.at_, false)
  | .ok g =>
    (s.ringWrite r (g.statusAt r.slot + 4) (leBytes 28 (code + flags * 2 ^ 8 + tag * 2 ^ 32 + done % 2 ^ 32 * 2 ^ 64 + fva * 2 ^ 96))).mapError
      fun e => (e, g.statusAt r.slot, true)

/-- Advance CPTR over every completed slot that follows it (R182): a status that misses the second stage is waited for, unless its page
request was denied; one that cannot be read ends the run, and is logged where it was dropped for its world. -/
def State.advanceCptr (s : State) (q : QueueId) (r : RingSlot) (denied : Bool) : Except Failed State :=
  match s.ring r with
  | .error e => .error (e, r.at_, false)
  | .ok g =>
    let x := s.cptrAfter r g (sub32 g.wptr g.cptr) g.cptr
    match x.2, denied with
    | some (.miss p t, va, wr), false => .error (.miss p t, va, wr)
    | _, _ =>
      let s := match x.2 with | some f => s.logBad q false f.1 | none => s
      ((s.ringWrite r (r.at_ + 16) (leBytes 4 x.1)).map State.wakeAwaits).mapError fun e => (e, r.at_, true)

/-- Write a slot's status and advance CPTR. -/
def State.completeSlot (s : State) (q : QueueId) (r : RingSlot) (code flags tag done fva : Nat) : Except Failed State :=
  (s.writeStatus r code flags tag done fva).bind fun s => s.advanceCptr q r false

/-- A packet of a queue is outstanding no more for the groups that posted it (R53, R54). -/
def State.packetGone (s : State) (q : QueueId) (p : Packet) : State :=
  { s with groups := s.groups.map fun g =>
      if g.vd = q.vd ∧ !g.posted.isEmpty then { g with posted := g.posted.filter fun x => x != (q.desc, p.slot) } else g }

/-- A packet, which is no more at the head or on the side list of its queue, was consumed without effect: it is counted
(R180). -/
def State.dropPacket (s : State) (q : QueueId) (p : Packet) : State := (s.packetGone q p).countError q

/-- The descriptor, or a slot, cannot be trusted: the server consumes nothing more (R159, R161). -/
def State.haltQueue (s : State) (x : Queue) : State :=
  (s.setQueue { x with halted := true, rewritten := false }).setQstate x.id 5

/-- SKIND of a server. -/
def kindCode : ServerKind → Nat
  | .engine => 0
  | .launchUnit => 1
  | .peerPort => 2

/-- The check of a descriptor by its server (R159, R243). -/
def State.descOk (s : State) (q : QueueId) (d : QDesc) : Bool :=
  q.desc % 64 == 0 && d.servable (s.vd q.vd).ceiling && d.skind == kindCode q.kind

/-- The die of a server is TRUSTED; the peer ports are the I/O die's (R26, R428). -/
def State.serverUp (s : State) (q : QueueId) : Bool :=
  decide ((s.die (if q.kind = .peerPort then 3 else serverDie q)).state = .trusted)

/-! ### Request permits (R420) -/

/-- The quadrant whose permits a request takes: of its memory unit, or of the control-core context of its number. -/
def Req.quadrant (r : Req) : Nat := r.src % 864

/-- The slice that a line's requests go to: for a line of a pair, that of copy 0 (R387). -/
def State.sliceHome (s : State) (p : Place) : Nat := s.sliceOf p.space p.addr

/-- The place lies in a scratchpad, whose requests take no permit. -/
def Place.inScratch (p : Place) : Bool := match p.space with | .scratch _ => true | _ => false

/-- A request that its source keeps back until others have been performed has no permit yet (R144). -/
def State.keptBack (s : State) (r : Req) : Bool := r.waits.any s.outstanding

/-- Fewer than 8 of some requests are of a quadrant and go to the slice of a line. -/
def State.permitsLeft (s : State) (l : List Req) (quadrant : Nat) (p : Place) : Bool :=
  let mine := l.filter fun q => q.quadrant == quadrant && !q.place.inScratch && !s.keptBack q
  decide (mine.length < 8) || decide ((mine.filter fun q => s.sliceHome q.place == s.sliceHome p).length < 8)

/-- A request in flight finds one of the 8 permits of its quadrant for its slice: those that have been delivered hold theirs, and of the
others they go to the first issued; each is given back when its request is performed or dropped (log 90). -/
def State.hasPermit (s : State) (r : Req) : Bool :=
  r.place.inScratch || s.permitsLeft (s.reqs.filter fun q => q.id != r.id && (q.landed || decide (q.id < r.id))) r.quadrant r.place

/-- A unit of a quadrant that makes its accesses one by one finds a permit for a line. -/
def State.permitFree (s : State) (quadrant : Nat) (p : Place) : Bool := s.permitsLeft s.reqs quadrant p

/-! ### Tokens (R421) -/

/-- A device is not rate-limited. -/
def State.unlimited (s : State) (vd : Nat) : Bool := (s.vd vd).rate.toNat / 65536 == 0

/-- A device's next request line may go out: the device is not rate-limited, or it has a token. -/
def State.hasToken (s : State) (vd : Nat) : Bool := s.unlimited vd || decide (0 < (s.vd vd).tokens)

/-- The tokens that n request lines of a rate-limited device take, beside those that their source has been given already. -/
def State.takeTokens (s : State) (vd n paid : Nat) : State :=
  if s.unlimited vd then s else s.setVd vd { s.vd vd with tokens := (s.vd vd).tokens - (n - paid) }

/-- A source has the tokens for n request lines. -/
def State.enough (s : State) (vd n paid : Nat) : Bool := s.unlimited vd || decide (n ≤ (s.vd vd).tokens + paid)

/-! ### What a server's step waits for (R402, R420, R421, R436) -/

/-- The number of the control-core context that serves a group (R153). -/
def Group.coreSource (g : Group) : Nat := 4 * g.cluster + (g.core.map (·.quadrant)).getD 0

/-- The quadrant whose permits a copy engine's queue context takes: the one its group's control core stands on. -/
def State.queueQuadrant (s : State) (q : QueueId) : Option Nat :=
  match ((s.queue? q).bind (·.group)).bind s.group? with
  | some g => if q.kind = .engine then some (g.coreSource) else none
  | none => none

/-- A queue's next step may reach the lines of some virtual addresses: no home keeps them waiting, its quadrant has a permit for each, and
its device has tokens for the n that count. A step makes its accesses at once, so it waits as a whole (log 117). -/
def State.mayReach (s : State) (q : QueueId) (vas : List Nat) (n : Nat) : Bool :=
  s.linesFree q.vd vas &&
  (match s.queueQuadrant q with
    | none => true
    | some k => decide (s.reqs.length < 8) || (s.linesOf q.vd vas).all (s.permitFree k)) &&
  s.enough q.vd n (((s.queue? q).map (·.paid)).getD 0)

/-- The step's tokens are taken. -/
def State.pay (s : State) (q : QueueId) (n : Nat) : State :=
  let s' := s.takeTokens q.vd n (((s.queue? q).map (·.paid)).getD 0)
  match s'.queue? q with
  | some x => if x.paid = 0 then s' else s'.setQueue { x with paid := 0 }
  | none => s'

/-- The step waits: it calls the channels in self-refresh out, or is given what tokens there are. -/
def State.awaitReach (s : State) (q : QueueId) (vas : List Nat) (n : Nat) : State :=
  if !s.linesFree q.vd vas then (s.reached q.vd vas).foldl State.callChannel s
  else
    match s.queue? q with
    | some x =>
      if s.enough q.vd n x.paid then s
      else (s.setVd q.vd { s.vd q.vd with tokens := 0 }).setQueue { x with paid := x.paid + (s.vd q.vd).tokens }
    | none => s

/-- A queue's step, once it may reach its lines. -/
def State.whenFree (s : State) (q : QueueId) (vas : List Nat) (n : Nat) (k : State → State) : State :=
  if s.mayReach q vas n then k (s.pay q n) else s.awaitReach q vas n

/-- The request lines of some virtual addresses. -/
def lineCount (vas : List Nat) : Nat := ((vas.map (· / 128)).eraseDups).length

/-- A step of a queue that reaches lines. Those of a copy engine each take a token. -/
def State.serve (s : State) (q : QueueId) (vas : List Nat) (k : State → State) : State :=
  s.whenFree q vas (if q.kind = .engine then lineCount vas else 0) k

/-- The memory lines of a ring that taking or completing its slot reaches. -/
def State.ringLines (s : State) (r : RingSlot) : List Nat :=
  if r.window.isSome then []
  else r.addr :: (match s.ring r with | .ok g => [g.statusAt g.wptr, g.statusAt r.slot] | .error _ => [])

/-! ### A server that has stopped -/

/-- The server of a queue has stopped: its device is quiesced or moored, or is not there, its die is not TRUSTED, or the clusters are held
(R26, R380, R433, R434; log 59). -/
def State.serverStopped (s : State) (q : QueueId) : Bool :=
  let v := s.vd q.vd
  !v.created || v.quiesce || decide (v.moor ≠ .running) || !s.serverUp q || s.trust.hold

end Sys2Proof.Machine
end

