-- ==== Sys2Proof/Machine/Sync.lean ====
section
/-!
DEFINITION. Where fragments, teams and groups meet: merges at FUSE, the end of handlers' frames, barriers, the rendezvous
and the XSHUF exchange (02 R40, R43, R45, R53; 11 R238 to R241; 14 R295, R296; 19 R357).
-/
namespace Sys2Proof.Machine

/-- A fragment continues from a wait that it was parked in: the switch marker of the instruction parks it next (R83), or the
return of a retry (R249). -/
def Frag.wake (clock : Nat) (f : Frag) : Frag :=
  { f with park := if f.marked then .marker else if f.again then .drain else .none, marked := false, again := false, since := clock }

/-- The parks that last until outstanding operations have returned (R83, R249). -/
def Park.returns : Park → Bool
  | .marker | .drain => true
  | _ => false

/-! ### The parts of a serial split (R43) -/

/-- The parks at which a part of a serial split gives its entry to the next (R43; log 11). -/
def Park.givesWay : Park → Bool
  | .bar _ | .rdv | .fuse | .xshuf _ | .fork .. | .awaitf _ | .sleep _ | .mwait _ | .tret => true
  | _ => false

/-- A part of a serial split and those that it has pushed, newest first, to a depth (R235). -/
def Team.family (t : Team) : Nat → Frag → List Frag
  | 0, f => [f]
  | n + 1, f =>
    f :: (sortBy (fun a b => decide (b.part ≤ a.part))
      (t.frags.filter fun g => g.entry == f.entry && g.part != f.part && g.pusher == f.part)).flatMap (t.family n)

/-- The parts of the entry in the order in which they may follow part `f` when it stops: those that it has pushed, newest first;
then the part that pushed it, and what may follow that one (R43, R235). -/
def Team.followers (t : Team) : Nat → Frag → List Frag
  | 0, _ => []
  | n + 1, f =>
    (t.family t.frags.length f).tail ++
    (match t.frags.find? fun g => g.entry == f.entry && g.part == f.pusher && g.part != f.part with
      | some p => p :: t.followers n p
      | none => sortBy (fun a b => decide (b.part ≤ a.part)) (t.frags.filter fun g => g.entry == f.entry))

/-- The part that the entry of `f` runs next when `f` stops: the first that is not itself parked so; where all are, the part that
`f` was pushed by first of all. -/
def Team.follower (t : Team) (f : Frag) : Option Frag :=
  let l := (t.followers t.frags.length f).filter fun g => g.part != f.part
  (l.find? fun g => !g.park.givesWay).or (sortBy (fun a b => decide (a.part ≤ b.part)) (l.filter fun g => decide (g.part < f.part))).head?

/-- The issuing fragment has parked or ended: its entry passes to the next part, which can be ready from now on (R55), and
the last-result file is lost (R43, R61). -/
def Here.handOver (h : Here) : Here :=
  match h.team.follower h.frag with
  | none => h
  | some g => { h with team := h.team.setFrag { g with holds := true, since := h.clock }, frag := { h.frag with holds := false, x := [] } }

/-- A new consistency region for a fragment, with the next sequence of its slot (R136, R153). -/
def Team.newRegion (t : Team) (f : Frag) : Team × Frag :=
  ({ t with seqCtr := (t.seqCtr + 1) % 2 ^ 20 }, { f with seq := (t.seqCtr + 1) % 2 ^ 20 })

/-! ### FUSE (R40, R43, R78) -/

/-- The lowest of a list of numbers. -/
def minOf (l : List Nat) : Nat := l.foldl min (l.headD 0)

/-- Every fragment that holds a join number stands at its FUSE, and no handler's frame holds it. -/
def Team.fuseReady (t : Team) (num : Nat) : Bool :=
  (t.frags.all fun f => !(f.joins.any fun j => j.num == num) ||
    (decide (f.park = .fuse) && (match f.joins with | j :: _ => j.num == num | [] => false))) &&
  (t.frames.all fun r => !(r.joins.any fun j => j.num == num) || r.mask &&& t.live == 0#1024)

/-- Merge the fragments parked at the FUSE of a join number: into the lowest entry, with the mode of its first part. -/
def Team.fuse (clock : Nat) (t : Team) (num : Nat) : Team :=
  let at_ (f : Frag) : Bool := decide (f.park = .fuse) && (match f.joins with | j :: _ => j.num == num | [] => false)
  let fs := t.frags.filter at_
  let rest := t.frags.filter fun f => !at_ f
  let entry := minOf (fs.map (·.entry))
  let here := fs.filter fun f => f.entry == entry
  match here.find? fun f => f.part == minOf (here.map (·.part)) with
  | none => t
  | some first =>
    let f : Frag :=
      { first with
        mask := fs.foldl (fun m g => m ||| g.mask) 0#1024
        joins := first.joins.tail
        x := []
        waits := false
        region := if fs.all fun g => decide (g.region = first.region) then first.region else none
        holds := here.any (·.holds) || !(rest.any fun g => g.entry == entry && g.holds)
        marked := fs.any (·.marked)
        again := fs.any (·.again)
        hist := (fs.flatMap (·.hist)).eraseDups
        release := (fs.flatMap (·.release)).eraseDups }
    let left (g : Frag) : Frag := if g.entry = entry ∧ here.any (·.part == g.pusher) then { g with pusher := first.part } else g
    let (t, f) := Team.newRegion { t with frags := rest.map left } (f.wake clock)
    { t with frags := t.frags ++ [f] }

/-- Make every merge that is due. -/
def Team.settleFuse (clock : Nat) (t : Team) : Team :=
  let nums := (t.frags.filterMap fun f => if f.park = .fuse then f.joins.head?.map (·.num) else none).eraseDups
  nums.foldl (fun t n => if t.fuseReady n then t.fuse clock n else t) t

/-! ### Ends of handlers' frames (R357) -/

/-- Every lane that entered the handler has executed a TRET or exited. -/
def Frame.ended (r : Frame) (live : Mask) : Bool := r.entered &&& live &&& ~~~(r.retry ||| r.skip ||| r.term) == 0#1024

/-- End the frames that are due; true when a lane chose terminate. -/
def Team.settleFrames (clock : Nat) (t : Team) : Team × Option Frame :=
  match t.frames.find? fun r => r.ended t.live && r.term &&& t.live != 0#1024 with
  | some r => (t, some r)
  | none => ((t.frames.filter fun r => r.ended t.live).foldl (Team.endFrame clock) t, none)

/-! ### Barriers and the rendezvous (R45, R53, R240, R241) -/

/-- All the live fragments of a team are parked at one place. -/
def Team.allAt (t : Team) (p : Park) : Bool := !t.frags.isEmpty && t.frags.all fun f => decide (f.park = p)
def Team.exited (t : Team) : Bool := t.live == 0#1024

/-- The group's context has been started and has not exited. -/
def Group.coreRuns (g : Group) : Bool :=
  match g.core with
  | some c => !c.exited
  | none => false

/-- The teams of a group as bits. -/
def teamBit (tid : Nat) : BitVec 64 := BitVec.ofNat 64 (2 ^ tid)

/-- Every access of a group's teams has been performed; `core` counts those of the control core too. -/
def State.groupPerformed (s : State) (gid : Nat) (core : Bool) : Bool :=
  s.reqs.all fun r => r.gid != gid || (!core && r.tid == coreTid)

/-- Fragments parked at a place continue; at the completion of a BAR each starts a new consistency region (R136). -/
def Team.wakeAt (clock : Nat) (p : Park) (t : Team) : Team :=
  t.frags.foldl (fun t f =>
    if f.park = p then
      let (t, f) := if p = .rdv then (t, f.wake clock) else t.newRegion (f.wake clock)
      t.setFrag f
    else t) t

/-- The arrivals that stand at barrier n. -/
def Group.arrivals (g : Group) (p : Park) : BitVec 64 :=
  g.teams.foldl (fun m t => if t.allAt p then m ||| teamBit t.tid else m) 0#64

/-- Record the arrivals at a barrier, and complete it when every team that has not exited has arrived (R45); it
releases the teams' accesses, so it completes once they are performed. -/
def Group.settleBar (performed : Bool) (clock n : Nat) (g : Group) : Group :=
  let arr := g.arrivals (.bar n)
  let b := (g.barriers[n]?).getD { arrived := 0, gen := 0 }
  if arr ≠ 0#64 ∧ performed ∧ g.teams.all (fun t => t.exited || t.allAt (.bar n)) then
    { g with teams := g.teams.map (Team.wakeAt clock (.bar n)),
             barriers := g.barriers.set n { arrived := 0, gen := b.gen + 1 } }
  else { g with barriers := g.barriers.set n { b with arrived := arr } }

/-- A packet of a queue is outstanding: taken and not completed, or parked. -/
def State.queueTaken (s : State) (q : QueueId) : Bool :=
  (match s.queue? q with
    | some x => x.head.isSome
    | none => false) ||
  s.side.any fun p => decide (p.2.1 = q)

/-- A packet that the group posted to its bound queue has not completed (R53, R54; log 94). -/
def Group.postedTo (g : Group) (q : QueueId) : Bool := g.posted.any fun p => p.1 == q.desc

/-- A packet of a queue is outstanding, or posted in it by anyone; one behind an unreadable slot may be, and one behind a
descriptor that its server is still to read. Behind one that cannot be read, those that the group posted are (R243; log 94). -/
def State.queueBusy (s : State) (g : Group) (q : QueueId) : Bool :=
  s.queueTaken q ||
  (match s.desc q.vd q.desc with
    | .ok d => (List.range (sub32 d.widx d.ridx)).any fun k =>
        match s.readVa q.vd (d.slotAt (d.ridx + k)) 1 with
        | .ok [b] => b.getLsbD 7
        | _ => true
    | .error (.miss _ _) => !((s.queue? q).map (·.halted)).getD false || g.postedTo q
    | .error _ => g.postedTo q)

/-- The copy queue counts as arrived at the rendezvous (R53, R241). -/
def State.queueArrived (s : State) (g : Group) : Bool :=
  match g.queue with
  | none => true
  | some q => !g.postedTo q && !((s.queue? q).map (·.halted)).getD false

/-- The control-core context has arrived, exited, or is not there. -/
def Group.coreArrived (g : Group) : Bool :=
  match g.core with
  | none => true
  | some c => c.exited || c.allAt .rdv

/-- Record the arrivals at the rendezvous and complete it when every party has arrived. -/
def State.settleRdv (s : State) (g : Group) : Group :=
  let arr := g.arrivals .rdv
  let waits := arr ≠ 0#64 ∨ (g.core.map fun c => c.allAt .rdv).getD false
  if waits ∧ (g.teams.all fun t => t.exited || t.allAt .rdv) ∧ g.coreArrived ∧ s.queueArrived g
      ∧ s.groupPerformed g.gid true then
    { g with teams := g.teams.map (Team.wakeAt s.clock .rdv), core := g.core.map (Team.wakeAt s.clock .rdv),
             rdv := { arrived := 0, core := false, queue := false, gen := g.rdv.gen + 1 } }
  else { g with rdv := { g.rdv with arrived := arr, core := g.coreArrived, queue := s.queueArrived g } }

/-- The parked FORKs of a cluster in the order they were executed. -/
def State.forks (s : State) (cluster : Nat) : List (AgentId × Nat × Nat × Nat) :=
  let all := s.groups.flatMap fun g =>
    if g.cluster = cluster ∧ g.phase = .resident then
      g.teams.flatMap fun t => t.frags.filterMap fun f =>
        match f.park with
        | .fork _ _ order _ => some (({ gid := g.gid, tid := t.tid, ent := f.entry, part := f.part } : AgentId), order, t.quadrant, g.gid)
        | _ => none
    else []
  sortBy (fun a b => decide (a.2.1 ≤ b.2.1)) all

/-- The place of a FORK that comes after all those parked on a cluster. -/
def State.forkTail (s : State) (cluster : Nat) : Nat := ((s.forks cluster).map fun x => x.2.1 + 1).foldl max 0

/-- Arrival points (R240). -/
def Park.isArrival : Park → Bool
  | .bar _ | .rdv | .xshuf _ => true
  | _ => false

/-- Whether two parks name one arrival point. -/
def Park.samePoint : Park → Park → Bool
  | .bar m, .bar n => m == n
  | .rdv, .rdv => true
  | .xshuf _, .xshuf _ => true
  | _, _ => false

/-- The fragment that now parks at `p` is the last of its team's, and the others stand at arrival points or at FUSE but
not all at the point it names (R240). -/
def Here.mixed (h : Here) (p : Park) : Bool :=
  let others := h.team.frags.filter fun f => !(f.entry == h.frag.entry && f.part == h.frag.part)
  (others.all fun f => f.park.isArrival || decide (f.park = .fuse)) && !(others.all fun f => f.park.samePoint p)

/-! ### XSHUF (R295, R296) -/

/-- The partner of a group: none when no group is numbered so; otherwise the group, unless it has ended. -/
def State.partner (s : State) (g : Group) : Option (Option Group) :=
  match s.launchOf g with
  | none => none
  | some l =>
    let p := if g.f2 % 2 = 0 then g.f2 + 1 else g.f2 - 1
    if (l.hdr.ext[2]?).getD 1 ≤ p then none
    else some (s.groups.find? fun q => q.launch == g.launch && q.f2 == p && q.f3 == g.f3 && q.f4 == g.f4 && q.f5 == g.f5)

/-- The team of the same F1, or the context, of a partner group; none when it has exited or the group has ended. A
context that no FORK has started yet is waited for. -/
inductive PartnerTeam where
  | gone
  | waits
  | team (t : Team)
  deriving DecidableEq, Repr

def partnerTeam (q : Option Group) (t : Team) : PartnerTeam :=
  match q with
  | none => .gone
  | some g =>
    if t.isCore then
      match g.core with
      | none => .waits
      | some c => if c.exited then .gone else .team c
    else
      match g.teams.find? fun u => u.f1 == t.f1 with
      | none => .gone
      | some u => if u.exited then .gone else .team u

def Team.allAtXshuf (t : Team) : Bool :=
  !t.frags.isEmpty && t.frags.all fun f => match f.park with | .xshuf _ => true | _ => false

/-- Some fragment of the team is parked at XSHUF. -/
def Team.anyAtXshuf (t : Team) : Bool := t.frags.any fun f => match f.park with | .xshuf _ => true | _ => false

/-- The XSHUF operation of a fragment. -/
def Team.xshufOut (t : Team) (f : Frag) : Option Out :=
  match f.park with
  | .xshuf op => t.outs.find? fun o => o.id == op
  | _ => none

/-- What a team offers in a lane at the exchange: its value, and the specifier through which it is read. A lane that has exited offers
what the XSHUF of the team's first fragment names (R295, log 130). -/
def Team.offer (t : Team) (lane : Nat) : Nat × Nat :=
  match (t.frags.find? fun f => f.mask.has lane).or t.frags.head? with
  | none => (0, 0xD4)
  | some f =>
    match t.xshufOut f with
    | none => (0, 0xD4)
    | some o =>
      match o.kind with
      | .xshuf src _ => ((src[lane]?).getD 0, (aOf o.word).toNat)
      | _ => (0, 0xD4)

/-- The words of an operand of a team are poisoned in a lane. -/
def Team.offerPoisoned (t : Team) (spec words lane : Nat) : Bool :=
  (fieldWords (spec, words)).any fun r => (t.reg r).poisoned lane

/-- The exchange for one team (until then the operation's data lists its active lanes): each operation receives its data, with POISONREG for the lanes that read a poisoned
word, and the fragments continue. A word that arrives is read and placed in the receiver's TYPE (R73, R287), also where the partner's TYPE
has another width (log 144). -/
def Team.exchange (clock : Nat) (t u : Team) : Team :=
  t.frags.foldl (fun t' f =>
    match t.xshufOut f with
    | none => t'
    | some o =>
      match o.kind with
      | .xshuf _ from_ =>
        let src (lane : Nat) : Nat := (from_[lane]?).getD 0
        let own (lane : Nat) : Bool := decide (t.e0 ≤ src lane)
        let fmt := typeFormat (modeType f.mode)
        let get (lane : Nat) : Nat × Bool :=
          let p := if own lane then t.offer lane else u.offer (src lane)
          (placeIn fmt (p.1 % 2 ^ fmt.bits), if own lane then t.offerPoisoned p.2 o.dst.length lane else u.offerPoisoned p.2 o.dst.length (src lane))
        let act := o.data.map (·.1)
        let bad := Mask.ofPred t.e0 fun k => act.contains k && (get k).2
        let good := act.filter fun k => !bad.has k
        let first := (bad.lanes t.e0).headD 0
        let spec := if own first then (t.offer first).2 else (u.offer (src first)).2
        let o' : Out := { o with kind := .calc, data := good.map (fun k => (k, (get k).1)) }
        let faults := if bad = 0#1024 then t'.faults else insertFault t'.faults
          (o.fault { cause := cPOISONREG, lanes := some bad, detail := BitVec.ofNat 32 spec, dest := o.dst })
        ({ t' with outs := t'.outs.map fun (x : Out) => if x.id = o.id then o' else x, faults := faults }).setFrag (f.wake clock)
      | _ => t') t

/-- The partner has exited while fragments of the team are parked at XSHUF: their active lanes trap NOPARTNER at the park,
and a fragment with none goes on (R296). -/
def Team.abandon (clock : Nat) (t : Team) : Team :=
  t.frags.foldl (fun t' f =>
    match t.xshufOut f with
    | none => t'
    | some o =>
      let act := Mask.ofPred t.e0 fun k => o.data.any fun p => p.1 == k
      let faults := if act = 0#1024 then t'.faults
        else insertFault t'.faults (o.fault { cause := cNOPARTNER, lanes := some act, dest := o.dst })
      ({ t' with outs := t'.outs.filter fun x => x.id != o.id, faults := faults }).setFrag
        (if act = 0#1024 then f.wake clock else { f with park := if f.marked then .marker else .drain, marked := false })) t

/-- Make the XSHUF exchanges of a group that are due. -/
def State.settleXshuf (s : State) (gid : Nat) : State :=
  match s.group? gid with
  | none => s
  | some g =>
    g.allTeams.foldl (fun s t =>
      if !t.anyAtXshuf || g.phase != .resident then s
      else
        match s.partner g with
        | none => s
        | some q =>
          match partnerTeam q t with
          | .waits => s
          | .gone => s.setGroup (((s.group? gid).getD g).setTeam (t.abandon s.clock))
          | .team u =>
            match q with
            | none => s
            | some p =>
              if t.allAtXshuf && u.allAtXshuf && decide (p.phase = .resident) then
                let s' := s.setGroup (((s.group? gid).getD g).setTeam (t.exchange s.clock u))
                s'.setGroup (((s'.group? p.gid).getD p).setTeam (u.exchange s.clock t))
              else s) s

end Sys2Proof.Machine
end

