-- ==== Sys2Proof/Machine/Ready.lean ====
section
/-!
DEFINITION. What launches and their teams need, launches that are ready, launches that wait on a condition, and what of a saved
group still lies in place (02 R63; 20 R366 to R370, R376).
-/
namespace Sys2Proof.Machine

/-! ### What a header asks for (R33, R63) -/

def Header.e (h : Header) (k : Nat) : Nat := h.ext.getD k 1
/-- Rows of one quadrant that hold a register of one team (R33). -/
def Header.w (h : Header) : Nat := (h.e 0 + 31) / 32
/-- Full and prologue allotments: rows and words (R63). -/
def Header.fullRows (h : Header) : Nat := (h.fg + h.o) * h.w
def Header.fullWords (h : Header) : Nat := 2 * h.fv
def Header.prologueRows (h : Header) : Nat := (h.pg + h.o) * h.w
def Header.prologueWords (h : Header) : Nat := 2 * h.pv
/-- Groups of a cohort, and of the launch. -/
def Header.cohortSize (h : Header) : Nat := h.e 2
def Header.groupsOf (h : Header) : Nat := h.e 2 * h.e 3 * h.e 4 * h.e 5

/-- The split-table entries of a team: those of its fragments, and those that interrupted fragments return to. -/
def Team.entries (t : Team) : List Nat := (t.frags.map (·.entry) ++ t.frames.map (·.entry)).eraseDups

/-- What a team needs: rows it holds, rows and words it may grow to, and split-table entries. -/
structure Need where
  tid : Nat
  hold : Nat
  rows : Nat
  words : Nat
  entries : Nat
  deriving DecidableEq, Repr

/-- What a resident team holds and may grow to: a team that has exited or executed ACQUIRE grows no more (R48). -/
def Team.need (t : Team) (h : Header) : Need :=
  let full := t.acquired
  let grows := !t.acquired && !t.exited
  { tid := t.tid, hold := if full then h.fullRows else h.prologueRows, rows := if full || grows then h.fullRows else h.prologueRows,
    words := if full || grows then h.fullWords else h.prologueWords, entries := t.entries.length }

/-- The header of a group's launch. -/
def State.headerOf (s : State) (g : Group) : Option Header := (s.launchOf g).map (·.hdr)

/-! ### Ready launches and waiting launches (R368, R370) -/

/-- The launches of a device that are ready. -/
def State.readyLaunches (s : State) (vd : Nat) : List Launch := s.launches.filter fun l => l.vd == vd && decide (l.phase = .ready)

/-- A device with a ready launch, which the arbiter may serve. -/
def State.deviceReady (s : State) (vd : Nat) : Bool :=
  !(s.readyLaunches vd).isEmpty && (s.vd vd).created && !(s.vd vd).quiesce && decide ((s.vd vd).moor = .running)

def weightOf (v : VDev) : Nat := v.sched0.toNat % 256
def quantumOf (v : VDev) : Nat := v.qeff.toNat

/-- A pass is counted in parts of 1 that every weight divides: the least common multiple of 1 to 255 (R12, R370). -/
def passUnit : Nat := (List.range 255).foldl (fun n k => Nat.lcm n (k + 1)) 1

/-- The weighted pool devices that are ready. -/
def State.weightedReady (s : State) : List Nat :=
  (List.range 64).filter fun d => (s.vd d).pool && weightOf (s.vd d) != 0 && s.deviceReady d

/-- A device becomes ready: after idling, its pass is not behind the others' (R370). -/
def State.becomeReady (s : State) (vd : Nat) : State :=
  let v := s.vd vd
  let passes := (s.weightedReady.filter (· != vd)).map fun d => (s.vd d).pass
  match passes with
  | [] => s
  | p :: ps => s.setVd vd { v with pass := max v.pass (ps.foldl min p) }

/-- A launch becomes ready. It keeps its place in the order in which launches left their queues (R369). -/
def State.makeReady (s : State) (l : Launch) : State :=
  let idle := (s.readyLaunches l.vd).isEmpty
  let s := s.setLaunch { l with phase := .ready }
  if idle then s.becomeReady l.vd else s

/-- The wait condition of a launch is met (R368); a condition that cannot be read is not. -/
def State.conditionMet (s : State) (l : Launch) : Except Bad Bool :=
  match l.hdr.waitKind with
  | 1 => (s.ring { vd := l.vd, window := none, addr := l.hdr.waitAddr, slot := 0 }).map fun r =>
      !bitOf (sub32 r.cptr (l.hdr.waitVal % 2 ^ 32)) 31
  | 2 => (s.valueVa l.vd l.hdr.waitAddr 8).map fun v => decide (l.hdr.waitVal ≤ v)
  | _ => .ok true

/-- The waiting launches of a die, in queue order. -/
def State.waitList (s : State) (die : Nat) : List Launch :=
  s.launches.filter fun l => l.die == die && decide (l.phase = .waiting)

/-- The launch unit evaluates the condition of a waiting launch, while its die is TRUSTED (R26). -/
def State.checkWait (s : State) (l : Launch) : State :=
  if !s.serverUp l.queue || l.phase ≠ .waiting then s
  else if !s.linesFree l.vd [l.hdr.waitAddr] then (s.reached l.vd [l.hdr.waitAddr]).foldl State.callChannel s
  else
  match s.conditionMet l with
  | .ok true => s.makeReady l
  | .error (.miss g t) => s.pageMiss l.vd l.die 0xFFFF l.hdr.waitAddr g (if t then 1 else 3) false []
  | .error b => s.logBad l.queue false b
  | .ok false => s

/-- Evaluate the conditions of every waiting launch: those that are met leave the wait lists together, in queue order. The
launch units do so at every write of a word's line (R368). -/
def State.wakeLaunches (s : State) : State :=
  (s.launches.filter fun l => decide (l.phase = .waiting) && s.serverUp l.queue && s.linesFree l.vd [l.hdr.waitAddr] &&
    (match s.conditionMet l with | .ok b => b | .error _ => false)).foldl State.makeReady s

/-! ### Lazy saves (R376) -/

/-- The teams of the same cluster and quadrant. -/
def State.onQuadrant (s : State) (cluster quadrant : Nat) : List (Group × Team) :=
  s.groups.flatMap fun g => if g.cluster = cluster ∧ g.phase.placed then
    (g.teams.filter fun t => t.quadrant == quadrant).map fun t => (g, t) else []

/-- What a group leaves in place when it is saved. -/
def State.leaves (s : State) (g : Group) : List (Nat × Nat × Nat) × List (Nat × Nat) :=
  (match s.headerOf g with
    | none => []
    | some h => g.teams.map fun t => (t.quadrant, (t.need h).hold, 2 * t.vCount),
   if g.spad = 0 then [] else [(g.base, g.spad)])

/-- Evict rows and words of a quadrant from a list of what lies in place; how many are still to be evicted. -/
def dropRows (k : Nat) : List (Nat × Nat × Nat) → Nat × Nat → List (Nat × Nat × Nat) × (Nat × Nat)
  | [], o => ([], o)
  | x :: l, o =>
    if x.1 = k then
      let r := dropRows k l (o.1 - x.2.1, o.2 - x.2.2)
      ((k, x.2.1 - o.1, x.2.2 - o.2) :: r.1, r.2)
    else
      let r := dropRows k l o
      (x :: r.1, r.2)

/-- Some of a quadrant's rows and words lie in place for saved groups, and its teams hold more than the rest: as many are
written to the images, those of the groups first listed first (the choice is the model's, log 96). -/
def State.evictRows (s : State) (cluster k : Nat) : State :=
  let add (x y : Nat × Nat) : Nat × Nat := (x.1 + y.1, x.2 + y.2)
  let held := (s.onQuadrant cluster k).foldl (fun n p =>
    add n ((((s.headerOf p.1).map fun h => (p.2.need h).hold).getD 0), 2 * p.2.vCount)) (0, 0)
  let mine (g : Group) : Bool := decide (g.phase = .saved) && g.cluster == cluster
  let lazies := ((s.groups.filter mine).flatMap fun g => (g.lazyRows.filter fun x => x.1 == k).map (·.2)).foldl add (0, 0)
  let r := s.groups.foldl (fun (acc : List Group × (Nat × Nat)) g =>
    if mine g then
      let x := dropRows k g.lazyRows acc.2
      (acc.1 ++ [{ g with lazyRows := x.1.filter fun y => y.2 != (0, 0) }], x.2)
    else (acc.1 ++ [g], acc.2)) ([], (held.1 + lazies.1 - 4096, held.2 + lazies.2 - 2048))
  { s with groups := r.1 }

/-- Scratchpad that lies in place on a cluster is written to its image where a group that is placed there takes it: the
ranges that it overlaps in the share of one device, all that another device left in the pool's banks. -/
def State.evictBanks (s : State) (cluster : Nat) : State :=
  let here := s.groups.filter fun g => g.cluster == cluster && g.phase.placed && g.spad != 0
  let gone (g : Group) (x : Nat × Nat) : Bool := here.any fun q =>
    q.vd != g.vd || (decide (x.1 < q.base + q.spad) && decide (q.base < x.1 + x.2))
  { s with groups := s.groups.map fun g =>
      if g.phase = .saved ∧ g.cluster = cluster ∧ !g.lazySpad.isEmpty then { g with lazySpad := g.lazySpad.filter fun x => !gone g x } else g }

/-- Incoming work of a cluster takes what saved groups left in place (R376). -/
def State.evict (s : State) (cluster : Nat) : State :=
  if s.groups.any fun g => decide (g.phase = .saved) && g.cluster == cluster && (!g.lazyRows.isEmpty || !g.lazySpad.isEmpty) then
    (([0, 1, 2, 3] : List Nat).foldl (fun s k => s.evictRows cluster k) s).evictBanks cluster
  else s

/-- Everything that some saved groups left in place is written to their images at once (R416, R434). -/
def State.evictAll (s : State) (p : Group → Bool) : State :=
  { s with groups := s.groups.map fun g => if p g then { g with lazyRows := [], lazySpad := [] } else g }

end Sys2Proof.Machine
end

