-- ==== Sys2Proof/Machine/Tiles.lean ====
section
/-!
DEFINITION. Accumulator elements and tiles: steps, resolve, drains, images and headers (04 R108 to R117; 08 R191 to R198,
R200).
-/
namespace Sys2Proof.Machine

/-! ### Elements (R108 to R116) -/

/-- An element, fused for a pair: `g` = 56 or 112 bits of S and C. -/
structure Acc where
  g : Nat
  s : Nat
  c : Nat
  nan : Bool
  pinf : Bool
  ninf : Bool
  ovf : Bool
  resolved : Bool
  deriving DecidableEq, Repr

/-- The element that one half holds alone. -/
def Elem.acc (e : Elem) : Acc :=
  { g := 56, s := e.s.toNat, c := e.c.toNat, nan := e.nan, pinf := e.pinf, ninf := e.ninf, ovf := e.ovf, resolved := e.resolved }

/-- The fused element of an even and an odd half (R109). -/
def fused (e o : Elem) : Acc :=
  { g := 112, s := e.s.toNat + 2 ^ 56 * o.s.toNat, c := e.c.toNat + 2 ^ 56 * o.c.toNat, nan := e.nan, pinf := e.pinf,
    ninf := e.ninf, ovf := e.ovf, resolved := e.resolved }

/-- A half of an element: its low 56 bits, or the next 56. -/
def Acc.half (a : Acc) (odd : Bool) : Elem :=
  let k := if odd then 2 ^ 56 else 1
  { s := BitVec.ofNat 56 (a.s / k), c := BitVec.ofNat 56 (a.c / k), nan := a.nan, pinf := a.pinf, ninf := a.ninf,
    ovf := a.ovf, resolved := a.resolved }

/-- X: the sum of S and C modulo 2^G, signed. -/
def Acc.value (a : Acc) : Int := intOf true a.g (a.s + a.c)

/-- The canonical width N. -/
def Acc.n (a : Acc) : Nat := if a.g = 56 then 48 else 96

/-- S holds an integer and C is zero. -/
def Acc.exactly (a : Acc) (x : Int) : Acc := { a with s := wrapTo a.g x, c := 0 }

/-- A term of a sum (R113): of a product, or an arrival's X. -/
inductive Term where
  | nan
  | inf (neg : Bool)
  | fin (x : Int)
  deriving DecidableEq, Repr

/-- floor(p / 2^W) of an exact product of two finite values. -/
def reduceToWindow (a b : Num) (w : Int) : Int :=
  match a, b with
  | .fin na ma ea, .fin nb mb eb =>
    let m : Int := if na != nb then -((ma * mb : Nat) : Int) else ((ma * mb : Nat) : Int)
    let e := ea + eb - w
    if 0 ≤ e then m * (2 ^ e.toNat : Nat) else Int.fdiv m (2 ^ (-e).toNat : Nat)
  | _, _ => 0

/-- The term of a product (R113). -/
def productTerm (a b : Num) (w : Int) : Term :=
  if a.isNan || b.isNan || (a.isInf && b.isZero) || (a.isZero && b.isInf) then .nan
  else if a.isInf || b.isInf then .inf (a.neg? != b.neg?)
  else .fin (reduceToWindow a b w)

/-- NAN absorbs the infinities, and two opposite infinities become NAN. -/
def Acc.classes (a : Acc) : Acc :=
  if a.nan || (a.pinf && a.ninf) then { a with nan := true, pinf := false, ninf := false } else a

/-- Add an integer to an element that has not overflowed: exactly, with a free split of the sum, or pinned at the edge of
the guard range. -/
def Acc.addInt (a : Acc) (t : Int) : Acc :=
  if a.ovf then a
  else
    let x := a.value + t
    let top : Int := (2 ^ (a.g - 1) : Nat)
    if x < -top ∨ top - 1 < x then { a.exactly (if x < 0 then -top else top - 1) with ovf := true }
    else
      let c := (Config.carrySplit (BitVec.ofNat 112 a.s) (BitVec.ofNat 112 a.c) t).toNat % 2 ^ a.g
      { a with s := wrapTo a.g (x - c), c := c }

/-- acc_step of R113. -/
def Acc.step (a : Acc) (t : Term) : Acc :=
  let a := match t with
    | .nan => { a with nan := true }
    | .inf neg => if neg then { a with ninf := true } else { a with pinf := true }
    | .fin x => a.addInt x
  { a.classes with resolved := false }

/-- An arrival's element added to the receiver's (R113). A receiver whose OVF is set counts as pinned, whatever set it (log 107). -/
def Acc.arrive (a b : Acc) : Acc :=
  let top : Int := (2 ^ (a.g - 1) : Nat)
  let merged := { a with nan := a.nan || b.nan, pinf := a.pinf || b.pinf, ninf := a.ninf || b.ninf }
  let r :=
    if b.ovf then
      if a.ovf then (if decide (a.value < 0) != decide (b.value < 0) then { merged with nan := true } else merged)
      else { merged.exactly (if b.value < 0 then -top else top - 1) with ovf := true }
    else merged.addInt b.value
  { r.classes with resolved := false }

/-- The value after resolve, and whether it saturates (R116). -/
def Acc.resolvedValue (a : Acc) : Int × Bool :=
  let lim : Int := (2 ^ (a.n - 1) : Nat) - 1
  if lim < a.value then (lim, true) else if a.value < -lim then (-lim, true) else (a.value, false)

/-- resolve (R116). -/
def Acc.resolve (a : Acc) : Acc :=
  let r := a.resolvedValue
  { a.exactly r.1 with ovf := a.ovf || r.2, resolved := true }

/-- An integer times a power of two, as a value. -/
def Num.ofPow (x w : Int) : Num := .fin (decide (x < 0)) x.natAbs w

/-- A resolved element drained to TYPE (R117): the pattern and the flags. -/
def Acc.drain (a : Acc) (w : Int) (type rnd : Nat) (sb ftz : Bool) : Nat × FFlags :=
  let f := typeFormat type
  if a.nan then ((if f.isInt then 0 else f.nanCode), fIV)
  else if a.pinf || a.ninf then
    if f.isInt then (wrapTo f.bits (if a.pinf then (intRange f).2 else (intRange f).1), fIV) else (f.infCode a.ninf, 0#5)
  else
    let r := round (Num.ofPow (intOf true a.n a.s) w) f rnd sb ftz
    (r.1, if a.ovf then r.2 ||| fOF else r.2)

/-! ### Images (R111, R112) -/

/-- The raw image of a half in a role: 0 single, 1 even, 2 odd. -/
def Elem.image (e : Elem) (role : Nat) : List Byte :=
  let b (x : Bool) (k : Nat) : Nat := if x then 2 ^ k else 0
  leBytes 16 (e.s.toNat + e.c.toNat * 2 ^ 56 + b e.nan 112 + b e.pinf 113 + b e.ninf 114 + b e.ovf 115 + b e.resolved 116
    + b (role != 0) 117 + b (role == 2) 118)

/-- The half that an image holds, none when the image alone is ill-formed or its PAIR or HIGH disagrees with the role
(R112, R198). -/
def Elem.ofImage (role : Nat) (bs : List Byte) : Option Elem :=
  let v := leValue bs
  let e : Elem :=
    { s := BitVec.ofNat 56 v, c := BitVec.ofNat 56 (v / 2 ^ 56), nan := bitOf v 112, pinf := bitOf v 113, ninf := bitOf v 114,
      ovf := bitOf v 115, resolved := bitOf v 116 }
  if bitsOf v 119 9 ≠ 0 ∨ (e.resolved ∧ e.c ≠ 0#56) ∨ (e.nan ∧ (e.pinf ∨ e.ninf)) ∨ (e.pinf ∧ e.ninf)
      ∨ bitOf v 117 ≠ (role != 0) ∨ bitOf v 118 ≠ (role == 2) then none
  else some e

/-- Two halves of a pair agree in class bits and RESOLVED (R112). -/
def Elem.agrees (e o : Elem) : Bool :=
  e.nan == o.nan && e.pinf == o.pinf && e.ninf == o.ninf && e.ovf == o.ovf && e.resolved == o.resolved

/-! ### Tiles (R191, R192) -/

/-- A tile that is empty (R185, R191). -/
def Tile.empty : Tile := { cls := 3, role := 0, w := 0, arrivals := 0, refused := false, els := [] }
/-- A unit with all tiles and both FIFOs empty. -/
def MUnit.empty : MUnit := { tiles := List.replicate 8 Tile.empty, fa := [], fb := [], queue := [], held := [] }

/-- An element after MAINIT (R110). -/
def Elem.zero : Elem := { s := 0#56, c := 0#56, nan := false, pinf := false, ninf := false, ovf := false, resolved := true }

def MUnit.tile (u : MUnit) (m : Nat) : Tile := (u.tiles[m]?).getD Tile.empty
def MUnit.setTile (u : MUnit) (m : Nat) (t : Tile) : MUnit := { u with tiles := u.tiles.set m t }

/-- The other tile of a pair. -/
def mate (m : Nat) : Nat := if m % 2 = 0 then m + 1 else m - 1

/-- A tile that leaves its pair takes the other one of the pair with it (R192). The role of the tile that leaves says whether it has
one, also where the halves do not match (log 127). -/
def MUnit.breakPair (u : MUnit) (m : Nat) : MUnit := if (u.tile m).role = 0 then u else u.setTile (mate m) Tile.empty

/-- MAINIT (R192). -/
def MUnit.init (u : MUnit) (m cls : Nat) (w : Int) : MUnit :=
  let fresh (role : Nat) : Tile :=
    { cls := cls, role := role, w := w, arrivals := 0, refused := false, els := List.replicate 1024 Elem.zero }
  let u := u.breakPair m
  if cls = 2 then (((u.breakPair (m + 1)).setTile m (fresh 1)).setTile (m + 1) (fresh 2)) else u.setTile m (fresh 0)

/-- MDROP of a tile (R192, R333). -/
def MUnit.drop (u : MUnit) (m : Nat) : MUnit := (u.breakPair m).setTile m Tile.empty

/-- The reason for WINDOW when an instruction acts on a tile through its even half: 0 empty, 1 odd half, 2 half-formed. -/
def MUnit.tileBad (u : MUnit) (m : Nat) : Option Nat :=
  let t := u.tile m
  if t.cls = 3 then some 0
  else if t.role = 2 then some 1
  else if t.role = 1 ∧ ((u.tile (m + 1)).cls = 3 ∨ (u.tile (m + 1)).role ≠ 2 ∨ (u.tile (m + 1)).w ≠ t.w) then some 2
  else none

/-- The elements of a tile, fused for a pair. -/
def MUnit.accs (u : MUnit) (m : Nat) : List Acc :=
  let t := u.tile m
  if t.role = 1 then (t.els.zip (u.tile (m + 1)).els).map fun p => fused p.1 p.2 else t.els.map Elem.acc

/-- Put the elements of a tile, or of a pair. -/
def MUnit.putAccs (u : MUnit) (m : Nat) (l : List Acc) : MUnit :=
  let t := u.tile m
  let u := u.setTile m { t with els := l.map fun a => a.half false }
  if t.role = 1 then u.setTile (m + 1) { u.tile (m + 1) with els := l.map fun a => a.half true } else u

/-- A signed 12-bit field. -/
def twelve (w : Int) : Nat := wrapTo 12 w

/-- The header (R191). -/
def Tile.header (t : Tile) : Nat :=
  let b (x : Bool) (k : Nat) : Nat := if x then 2 ^ k else 0
  twelve t.w + t.cls * 2 ^ 14 + t.role * 2 ^ 16 + b (t.cls != 3 && t.els.all (·.resolved)) 18 + b (t.els.any (·.ovf)) 19
    + b (t.els.any (·.nan)) 20 + b (t.els.any (·.pinf)) 21 + b (t.els.any (·.ninf)) 22 + b t.refused 23 + t.arrivals * 2 ^ 24

/-- A header that MLOAD of tile m accepts (R198). -/
def headerOk (h m : Nat) : Bool :=
  let role := bitsOf h 16 2
  let cls := bitsOf h 14 2
  decide (role ≠ 3) && decide (cls ≠ 3) && bitsOf h 12 2 == 0 && ((role != 0) == (cls == 2)) &&
    !(role == 1 && m % 2 == 1) && !(role == 2 && m % 2 == 0)

/-- The tile of a header and its images, none when one is ill-formed (R112, R198). -/
def Tile.ofImages (h : Nat) (images : List (List Byte)) : Option Tile :=
  let role := bitsOf h 16 2
  (images.mapM (Elem.ofImage role)).map fun els =>
    { cls := bitsOf h 14 2, role := role, w := intOf true 12 h, arrivals := bitsOf h 24 8, refused := bitOf h 23, els := els }

/-- MLOAD of a tile (R198, R330): an old pair that the new role does not fit is broken; a live half of the same pair must
agree with the new one (log 26). -/
def MUnit.load (u : MUnit) (m h : Nat) (images : List (List Byte)) : Option MUnit :=
  let role := bitsOf h 16 2
  let other := u.tile (mate m)
  let fits := decide (role ≠ 0) && decide (other.cls = 2) && decide (other.role = 3 - role)
  (Tile.ofImages h images).bind fun t =>
    if fits && !((t.els.zip other.els).all fun p => p.1.agrees p.2) then none
    else some ((if (u.tile m).role ≠ 0 ∧ !fits then u.setTile (mate m) Tile.empty else u).setTile m t)

/-! ### Operations on a unit (R193, R194, R197, R200) -/

/-- auto_window of R193. -/
def autoWindow (ea eb : Int) (h n : Nat) : Int :=
  if ea = -2048 ∨ eb = -2048 then -2048
  else min (max (ea + eb + 2 + h - (n - 1)) (-2048)) 2047

/-- The format of FIFO elements of a class. -/
def fifoFormat (cls : Nat) : Format := match cls with | 0 => c19 | 1 => fp32 | _ => fp64
def fifoK (cls : Nat) : Nat := match cls with | 0 => 16 | 1 => 8 | _ => 4

/-- The product of two panels added into a tile (R194). -/
def MUnit.mma (u : MUnit) (m : Nat) (a b : Panel) : MUnit :=
  let k := fifoK a.cls
  let f := fifoFormat a.cls
  let na := a.els.map (decodeNum f)
  let nb := b.els.map (decodeNum f)
  let w := (u.tile m).w
  u.putAccs m ((u.accs m).zipIdx.map fun p =>
    (((na.drop (k * (p.2 / 32))).take k).zip ((nb.drop (k * (p.2 % 32))).take k)).foldl
      (fun acc ab => acc.step (productTerm ab.1 ab.2 w)) p.1)

/-- mcmp of R197, for a threshold that is not NaN. -/
def MUnit.count (u : MUnit) (m : Nat) (t : Num) : Nat :=
  ((u.accs m).filter fun a =>
    !a.nan && decide (Num.cmp (if a.pinf then .inf false else if a.ninf then .inf true else Num.ofPow a.resolvedValue.1 (u.tile m).w) t = 1)).length

/-- An arrival from tile m of a sender at tile r of this unit: refused, with REFUSED set, or accepted and counted (R200,
R201). A half-formed pair refuses too (log 52). -/
def MUnit.arrive (u : MUnit) (r : Nat) (from_ : MUnit) (m : Nat) : MUnit × Bool :=
  let t := u.tile r
  let f := from_.tile m
  if (u.tileBad r).isSome ∨ t.w ≠ f.w ∨ t.cls ≠ f.cls ∨ t.role ≠ f.role then (u.setTile r { t with refused := true }, false)
  else
    let u := u.putAccs r (((u.accs r).zip (from_.accs m)).map fun p => p.1.arrive p.2)
    (u.setTile r { u.tile r with arrivals := min (t.arrivals + 1) 255 }, true)

end Sys2Proof.Machine
end

