-- ==== Sys2Proof/Machine/Ends.lean ====
section
/-!
DEFINITION. The ends of groups and launches, the saves of groups, and what a group settles after each step: frames, merges,
barriers, the rendezvous, exchanges, its save and its own end (02 R54; 06 R149; 07 R177; 08 R199; 11 R250; 19 R357 to R359;
20 R375 to R380).
-/
namespace Sys2Proof.Machine

/-- The end record of a launch, 64 bytes (R359). -/
def Launch.endRecord (l : Launch) : List Byte :=
  let flt := (l.deciding.map (·.1)).getD (List.replicate 8 0#32)
  let resume := (l.deciding.map (·.2)).getD 0
  leBytes 8 (l.status + l.traps * 2 ^ 32) ++ flt.flatMap (fun w => leBytes 4 w.toNat) ++ leBytes 8 resume ++ leBytes 16 0

/-- The lines that the end of a launch reaches. -/
def State.endLines (s : State) (l : Launch) : List Nat :=
  (if l.endva = 0 then [] else [l.endva]) ++ (l.ring.map s.ringLines).getD [] ++ [l.queue.desc]

/-- A launch has ended: its queue waits for it no more. -/
def State.launchGone (s : State) (l : Launch) : State :=
  { s with launches := s.launches.filter fun k => k.id != l.id,
           queues := s.queues.map fun (q : Queue) => if q.id = l.queue then { q with pending := q.pending.filter (· != l.id) } else q }

/-- An access of a launch's end failed: a second-stage miss leaves the rest of the end, from a stage on, to the reply; another failure
is logged and counted, and the launch has ended (R149, R163, R394; log 140). -/
def State.endFailed (s : State) (l : Launch) (stage : EndStage) (f : Failed) : State :=
  match f with
  | (.miss g t, va, wr) =>
    (s.pageMiss l.vd l.die 0xFFFF va g (if t then 1 else 3) wr [.queue l.queue]).setLaunch
      { l with stage := stage, endMiss := some (l.die, g / unit2M) }
  | (b, _, wr) => ((s.logBad l.queue wr b).countError l.queue).launchGone l

/-- Advance CPTR for the slot of a launch that has reported. -/
def State.endAdvance (s : State) (l : Launch) (denied : Bool) : State :=
  match l.ring with
  | none => s.launchGone l
  | some r =>
    match s.advanceCptr l.queue r denied with
    | .error f => s.endFailed l .advance f
    | .ok s => s.launchGone l

/-- Write the status of a launch's slot, then advance; a launch without a ring that ended other than by completion is counted. -/
def State.endReport (s : State) (l : Launch) : State :=
  let code := if l.status = 0 then stDONE else stENDED
  match l.ring with
  | none => (if code = stDONE then s else s.countError l.queue).launchGone l
  | some r =>
    match s.writeStatus r code 0 l.tag l.status 0 with
    | .error f => s.endFailed l .status f
    | .ok s => s.endAdvance l false

/-- Write the end record and complete the launch's ring slot (R149, R177, R182, R359). A second-stage miss leaves what is still to be
done to the reply, and lines that wait at their homes to a later event of its queue. -/
def State.endLaunch (s : State) (l : Launch) : State :=
  if l.endMiss.isSome then s
  else if !s.linesFree l.vd (s.endLines l) then (s.reached l.vd (s.endLines l)).foldl State.callChannel s
  else
    match l.stage with
    | .advance => s.endAdvance l false
    | .status => s.endReport l
    | .record =>
      match (if l.endva ≠ 0 ∧ l.endva % 64 = 0 then s.writeVa l.vd l.endva l.endRecord else .ok s) with
      | .error (.miss g t) => s.endFailed l .record (.miss g t, l.endva, true)
      | .error b => (s.logBad l.queue true b).endReport l
      | .ok s => s.endReport l

/-- Every group of the launch has ended and none is to come, so the launch ends. -/
def State.settleLaunch (s : State) (id : Nat) : State :=
  match s.launch? id with
  | none => s
  | some l =>
    if (l.phase = .stopping ∨ (l.phase = .ready ∧ l.toAdmit = 0)) ∧ !(s.groups.any fun g => g.launch == id) then s.endLaunch l
    else s

/-- A held line of the group waits for a page request. -/
def State.groupMisses (s : State) (gid : Nat) : Bool :=
  s.vds.any fun v => v.pageReqs.any fun r => r.waiters.any fun w => match w with | .line q _ => q.gid == gid | _ => false

/-- A held line or a fetch of the group waits for a page request, which holds its save (R394). -/
def State.groupHeld (s : State) (gid : Nat) : Bool :=
  s.vds.any fun v => v.pageReqs.any fun r => r.waiters.any fun w =>
    match w with | .line q _ => q.gid == gid | .frag a => a.gid == gid | _ => false

/-- Packets have left the side lists: those still parked look at their rings again (R184; log 141). -/
def State.wakeParked (s : State) : State :=
  { s with side := s.side.map fun e => if e.2.2.started then e else (e.1, e.2.1, { e.2.2 with woken := true }) }

/-- Packets of the group that a terminate abandons: those that hold the queue head or the side list and have not
started are consumed without effect and counted (R250). -/
def State.abandonPackets (s : State) (q : QueueId) : State :=
  let parked := s.side.filter fun p => decide (p.2.1 = q) && !p.2.2.started
  let s := if parked.isEmpty then s
    else ({ s with side := s.side.filter fun p => !(decide (p.2.1 = q) && !p.2.2.started) } : State).wakeParked
  let s := parked.foldl (fun s e => s.dropPacket q e.2.2) s
  match s.queue? q with
  | some x =>
    match x.head with
    | some p => if p.started then s else (s.setQueue { x with head := none }).dropPacket q p
    | none => s
  | none => s

/-- The group has ended (R54). -/
def State.groupDone (s : State) (g : Group) : Bool :=
  let stopping := ((s.launchOf g).map fun l => decide (l.phase = .stopping)).getD true
  g.teams.all Team.exited && ((g.core.map Team.exited).getD true) && g.munit.queue.isEmpty
    && s.groupPerformed g.gid true && !s.groupMisses g.gid
    && (match g.queue with
      | none => true
      | some q => if stopping then !s.queueTaken q else !g.postedTo q)

/-- The sequences of a group's slots are kept when its teams leave them (R153). -/
def State.keepSeqs (s : State) (g : Group) : State :=
  { s with seqs := g.allTeams.foldl (fun l t => assocSet l (g.slotOf t) t.seqCtr) s.seqs }

/-! ### Saves (R199, R374, R375, R380) -/

/-- A launch's effective priority (R369). -/
def State.effPriority (s : State) (l : Launch) : Nat := min l.hdr.priority (bitsOf (s.vd l.vd).sched1.toNat 16 2)

/-- The banks of a cluster that some of its quadrants bring (R415). -/
def State.banksOf (s : State) (cluster : Nat) (ks : List Nat) : Nat :=
  ks.foldl (fun n k => n + bitsOf (s.cluster cluster).spb.toNat (6 * k) 6) 0

/-- A group on a cluster uses some of its quadrants: a team or its context stands on one, or its scratchpad does not fit the
share that its device has without them (R415). -/
def State.usesQuads (s : State) (g : Group) (ks : List Nat) : Bool :=
  (g.allTeams.any fun t => ks.contains t.quadrant) ||
    (g.spad != 0 && !ks.isEmpty &&
      decide (32768 * s.banksOf g.cluster (((s.cluster g.cluster).quadsOf g.vd).filter fun k => !ks.contains k) < g.base + g.spad))

/-- The groups that a pre-emption of a cluster clears away. -/
def State.outgoing (s : State) (cluster : Nat) (p : Preempt) : List Group :=
  s.groups.filter fun g => g.cluster == cluster && g.vd == p.vd && g.phase.placed &&
    ((match p.level with
      | none => true
      | some n => ((s.launchOf g).map fun l => decide (s.effPriority l < n)).getD true) || s.usesQuads g p.quads)

/-- VDSCHED3 counts, each saturating (R371). -/
def countSched3 (w : Word) (discards overrun : Nat) : Word :=
  BitVec.ofNat 32 (min (bitsOf w.toNat 16 16 + discards) 65535 * 65536 + min (bitsOf w.toNat 0 16 + overrun) 65535)

/-- End the pre-emptions of a cluster that have cleared their groups away; one that has passed its deadline counts. -/
def State.settlePreempts (s : State) (cluster : Nat) : State :=
  let c := s.cluster cluster
  let done := c.preempts.filter fun p => (s.outgoing cluster p).isEmpty
  if done.isEmpty then s
  else
    done.foldl (fun s p =>
      if p.deadline < s.clock then
        let v := s.vd p.vd
        s.setVd p.vd { v with sched3 := countSched3 v.sched3 0 1 }
      else s) (s.setCluster cluster { c with preempts := c.preempts.filter fun p => !(s.outgoing cluster p).isEmpty })

/-- QUIESCED: every group of a device that quiesces is off its cluster (R380; its servers stop at once, log 59). -/
def State.settleQuiesce (s : State) (vd : Nat) : State :=
  let v := s.vd vd
  let q := v.quiesce && !(s.groups.any fun g => g.vd == vd && g.phase.placed)
  if v.quiesced = q then s else s.setVd vd { v with quiesced := q }

/-- The command queue of a unit is empty, or its head is parked (R199). -/
def MUnit.atRest (u : MUnit) : Bool :=
  match u.queue with
  | [] => true
  | c :: _ =>
    match c.what with
    | .mma m => (u.tileBad m).isNone && (u.fa.isEmpty || u.fb.isEmpty)
    | .initAuto _ _ _ => u.fa.isEmpty || u.fb.isEmpty
    | .dropFifo b n => decide ((if b then u.fb else u.fa).length < n)
    | .wait m n => n != 0 && (u.tileBad m).isNone && decide ((u.tile m).arrivals < n)
    | _ => false

/-- Nothing of a team is outstanding but what its image holds: exchanges, waits and commands. -/
def Team.atRest (t : Team) : Bool := t.outs.all fun o => match o.kind with | .calc | .memory => false | _ => true

/-- A group whose issue has stopped can be written to its image. -/
def State.savable (s : State) (g : Group) : Bool :=
  decide (g.phase = .saving) && s.groupPerformed g.gid true && !s.groupHeld g.gid && g.munit.atRest && g.allTeams.all Team.atRest

/-- Name a queue anew, wherever it is named. -/
def State.renameQueue (s : State) (old new : QueueId) : State :=
  let name (q : QueueId) : QueueId := if q = old then new else q
  let w (x : Waiter) : Waiter := match x with
    | .queue q => .queue (name q)
    | .count q => .count (name q)
    | .qstate q => .qstate (name q)
    | x => x
  { s with
    queues := s.queues.map fun x => if x.id = old then { x with id := new } else x
    side := s.side.map fun e => if e.2.1 = old then (unitNo new, new, e.2.2) else e
    vds := s.vds.map fun v =>
      if v.pageReqs.isEmpty then v
      else { v with pageReqs := v.pageReqs.map fun r => { r with waiters := r.waiters.map w } } }

/-- Write a group to its image (R377; log 50): its slots, its place and its queue context are released, and its rows, words and
banks stay in place until they are taken (R376). -/
def State.saveGroup (s : State) (g : Group) : State :=
  let s := s.keepSeqs g
  let q' := g.queue.map fun q => { q with unit := q.unit % 216 + 216 * (g.gid + 1) }
  let s := match g.queue, q' with
    | some q, some q' => s.renameQueue q q'
    | _, _ => s
  let left := s.leaves g
  let s := s.setGroup { g with phase := .saved, since := s.clock - g.since, memTags := [], queue := q',
                               lazyRows := left.1, lazySpad := left.2 }
  (s.settlePreempts g.cluster).settleQuiesce g.vd

/-- A save that is under way completes. -/
def State.settleSave (s : State) (gid : Nat) : State :=
  match s.group? gid with
  | some g => if s.savable g then s.saveGroup g else s
  | none => s

/-- End a group whose parties are all done: its resources are released (R54). What stands in its registers and tiles is kept as
the past of its launch (R348). -/
def State.settleEnd (s : State) (gid : Nat) : State :=
  match s.group? gid with
  | none => s
  | some g =>
    let stopping := ((s.launchOf g).map fun l => decide (l.phase = .stopping)).getD true
    let s := if stopping then (g.queue.map s.abandonPackets).getD s else s
    if s.groupDone g then
      let s := if g.phase.placed then s.keepSeqs g else s
      let s := { s with past := g :: s.past.filter (fun h => h.launch == g.launch && h.gid != gid)
                        groups := s.groups.filter (fun h => h.gid != gid)
                        queues := s.queues.filter fun q => !(decide (g.queue = some q.id)) }
      ((s.settlePreempts g.cluster).settleQuiesce g.vd).settleLaunch g.launch
    else s

/-- TRET on the held queue of a matrix unit (R328): retry performs it from the faulted instruction on, whose lines are those
of the frame; skip discards that one with the pending bits it held. -/
def Group.resumeHeld (g : Group) (retry : Bool) (lines : Option (List Nat)) : Group :=
  let gone := if retry then none else g.munit.held.head?.map (·.op)
  let outs (l : List Out) : List Out := (l.filter fun o => decide (some o.id ≠ gone)).map fun (o : Out) =>
    if o.kind = .held then { o with kind := .matrix } else o
  let cmds := match retry, g.munit.held with
    | true, c :: cs => { c with lines := lines } :: cs
    | _, l => l.tail
  { g with munit := { g.munit with queue := g.munit.queue ++ cmds, held := [] },
           core := g.core.map fun c => { c with outs := outs c.outs } }

/-- A retry of one cause while another of the same command waits: its lines are sent again by a command of their own, with an
operation that the next delivery waits for (R124). -/
def Group.resendHeld (g : Group) (lines : Option (List Nat)) : Group :=
  match g.munit.held, g.core with
  | c :: _, some t =>
    match t.outs.find? fun o => o.id == c.op with
    | some o =>
      { g with munit := { g.munit with queue := g.munit.queue ++ [{ c with op := t.nextOp, lines := lines, part := true }] },
               core := some { t with nextOp := t.nextOp + 1,
                                     outs := t.outs ++ [{ o with id := t.nextOp, kind := .matrix, reads := [], writes := [] }] } }
    | none => g
  | _, _ => g

/-- The frame of a held matrix instruction's trap that ends. -/
def Team.heldEnds (t : Team) : Option Frame := t.frames.find? fun r => r.held && r.ended t.live

/-- What the end of such a frame does to the held queue. -/
def Group.endHeld (g : Group) (r : Frame) (live : Mask) : Group :=
  let retry := r.retry &&& live != 0#1024
  let more := (g.core.map fun t => t.faults.any fun p => p.held && p.op == r.op).getD false
  if !more then g.resumeHeld retry r.lines
  else if retry then g.resendHeld r.lines
  else g

/-- The frames of a group's teams end where they are due; a terminate stops the launch, and its groups that have nothing
outstanding end (R250, R357). -/
def State.settleHandlers (s : State) (gid : Nat) : State :=
  match s.group? gid with
  | none => s
  | some g =>
    let r := g.allTeams.map (Team.settleFrames s.clock)
    match r.findSome? (·.2) with
    | some f =>
      let s := s.stopLaunch g.launch 1 (some (f.flt, f.pcResume.toNat))
      (s.groups.filter fun x => x.launch == g.launch && x.gid != gid).foldl (fun s x => s.settleEnd x.gid) s
    | none =>
      let g' := r.foldl (fun g p => g.setTeam p.1) g
      s.setGroup (match g.core.bind fun c => c.heldEnds.map fun r => (r, c.live) with
        | some (r, live) => g'.endHeld r live
        | none => g')

/-- The merges, barriers and rendezvous of a group. -/
def State.settleSync (s : State) (gid : Nat) : State :=
  match s.group? gid with
  | none => s
  | some g =>
    if g.phase ≠ .resident then s
    else
      let g := g.allTeams.foldl (fun g t => g.setTeam (t.settleFuse s.clock)) g
      let g := [0, 1, 2, 3].foldl (fun g n => g.settleBar (s.groupPerformed gid false) s.clock n) g
      s.setGroup (s.settleRdv g)

/-- What a group settles after a step that may let its parties meet or end. -/
def State.settle (s : State) (gid : Nat) : State :=
  ((((s.settleHandlers gid).settleSync gid).settleXshuf gid).settleSave gid).settleEnd gid

/-- Settle the partner of a group too (R296). -/
def State.settlePair (s : State) (gid : Nat) : State :=
  match (s.group? gid).bind s.partner with
  | some (some p) => (s.settle gid).settle p.gid
  | _ => s.settle gid

/-- Settle every group of a launch. -/
def State.settleAll (s : State) (launch : Nat) : State :=
  (s.groups.filter fun g => g.launch == launch).foldl (fun s g => s.settle g.gid) (s.settleLaunch launch)

end Sys2Proof.Machine
end

