-- ==== Sys2Proof/Machine/Control.lean ====
section
/-!
DEFINITION. Control instructions, opcodes 0x01 to 0x12 (11 R231 to R251; 02 R38 to R54; 09 R206).
-/
namespace Sys2Proof.Machine

/-- A control instruction that checks nothing but what it names, and acts on its fragment and team alone (R232). -/
def Here.plain (h : Here) (y : Bool) (u : Uses) (k : Here → Here) : Here := h.run y u fun h => (k h, none)

/-! ### Transfers (R233 to R236) -/

/-- How many entries a team may take for splits, and the free entries of its quadrant, lowest first (R44): its own
reserved entries that are free, and those of the unreserved pool. -/
def State.splitRoom (s : State) (h : Here) : Nat × List Nat :=
  if h.team.isCore then (0, [])
  else
    let ts := s.onQuadrant h.group.cluster h.team.quadrant
    let used := ts.flatMap fun p => p.2.entries
    let held := ts.foldl (fun n p => n + max p.1.splitmin p.2.entries.length) 0
    ((h.group.splitmin - h.team.entries.length) + (64 - held), (List.range 64).filter fun e => !used.contains e)

/-- Group the lanes that take a transfer by target, in order of their lowest lane. -/
def targetSets (lanes : List (Nat × Addr)) : List (Addr × Mask) :=
  lanes.foldl (fun acc p => if acc.any fun q => q.1 == p.2
    then acc.map fun q => if q.1 = p.2 then (q.1, q.2 ||| BitVec.ofNat 1024 (2 ^ p.1)) else q
    else acc ++ [(p.2, BitVec.ofNat 1024 (2 ^ p.1))]) []

/-- The other parts of the entry that stand with the fragment on one join stack: those of its own frame, since a handler starts with
an empty one (R38, R351). -/
def Here.parts (h : Here) : List Frag :=
  h.team.frags.filter fun f => f.entry == h.frag.entry && f.part != h.frag.part && f.frame == h.frag.frame

/-- Split the fragment: the first set stays in the parent entry, and each other takes an entry or becomes a deferred part
(R235, R43). None when a deferred part would pass the 16 levels of the join stack. -/
def Here.split (h : Here) (room : Nat × List Nat) (y : Bool) (sets : List (Addr × Mask)) : Option Here :=
  match sets with
  | [] => some { h with frag := h.frag.finish y }
  | first :: others =>
    let taken := others.take room.1
    let waits := others.drop room.1
    if !waits.isEmpty && decide (16 < h.frag.joins.length + h.parts.length + waits.length) then none
    else
      let top := (h.team.frags.filter fun f => f.entry == h.frag.entry).foldl (fun n f => max n f.part) 0
      let base := { h.frag.finish y with x := [], since := h.clock }
      let mk (entry part : Nat) (waits : Bool) (t : Team × List Frag) (p : Addr × Mask) : Team × List Frag :=
        let (tm, f) := t.1.newRegion { base with entry := entry, part := part, holds := !waits, waits := waits,
                                                 pusher := if waits then h.frag.part else part, mask := p.2, pc := p.1 }
        (tm, t.2 ++ [f])
      let (t0, parent) := h.team.newRegion { base with mask := first.2, pc := first.1 }
      let r1 := (taken.zip room.2).foldl (fun t p => mk p.2 0 false t p.1) (t0, ([] : List Frag))
      let r2 := waits.zipIdx.foldl (fun t p => mk h.frag.entry (top + 1 + p.2) true t p.1) r1
      some { h with team := { r2.1 with frags := r2.1.frags ++ r2.2 }, frag := parent }

/-- The shared course of BRA, JMP, CALL and RET (R233 to R236): the lanes of `takes` go to their targets, the others of the
mask to the next instruction. A CALL writes its link. -/
def State.transfer (s : State) (h : Here) (y : Bool) (u : Uses) (takes : Mask) (target : Nat → Nat) (link : Bool) : State :=
  let lanes := takes.lanes h.team.e0
  let full := h.team.isCore || takes == h.team.live
  let u := if link then { u with writes := [(0, 2)], grow := growOf (if full then .u else .g) 0 2 } else u
  match h.check u with
  | some t => s.put (h.raise u.act t)
  | none =>
    let h := { h with fresh := if h.readsFree u then h.fresh + 4096 else h.fresh }
    let bad (p : Nat → Bool) : Mask := Mask.ofPred h.team.e0 fun t => takes.has t && p (target t)
    let trapAt (cause : Nat) (m : Mask) : State :=
      s.put (h.raise u.act { cause := cause, lanes := some m, addr := target (m.lowest h.team.e0) % 2 ^ 64, detail := 0x80000000#32 })
    let misaligned := bad fun a => a % 4 != 0
    let outside := bad fun a => decide (2 ^ 48 ≤ a)
    if misaligned ≠ 0#1024 then trapAt cALIGN misaligned
    else if outside ≠ 0#1024 then trapAt cBOUNDS outside
    else
      let stay := h.frag.mask &&& ~~~takes
      let sets := (if stay = 0#1024 then [] else [(h.frag.nextPc, stay)]) ++
        targetSets (lanes.map fun t => (t, BitVec.ofNat 48 (target t)))
      let link (h : Here) : Here :=
        if link && takes != 0#1024 then
          let ret := (h.frag.pc + 4#48).toNat
          let set (tm : Team) (k : Nat) : Team :=
            tm.setReg k ((tm.reg k).write tm.e0 takes (if full then .u else .g) fun _ => BitVec.ofNat 32 (ret / 2 ^ (32 * k)))
          { h with team := set (set h.team 0) 1 }
        else h
      match sets with
      | [one] =>
        let h := link h
        s.put { h with frag := if takes = 0#1024 then h.frag.finish y else { h.frag.finish y with pc := one.1, x := [] } }
      | _ =>
        match h.split (s.splitRoom h) y sets with
        | none => s.put (h.raise u.act { cause := cILLOP, detail := u.word })
        | some h' => s.put { link h with team := { (link h).team with frags := h'.team.frags, seqCtr := h'.team.seqCtr }, frag := h'.frag }

/-- A target relative to the transfer's own address (R206), modulo 2^48 (R233). -/
def Here.relative (h : Here) (off : Int) : Nat := (h.frag.pc + BitVec.ofInt 48 (4 * off)).toNat

/-- NOP (R231). -/
def execNop (y : Bool) (s : State) : Host.Outcome State Fault Refusal :=
  issue s fun h => h.plain y { word := wordOf (.nop y), guard := false } id

/-- BRA: active lanes whose condition holds (R233). -/
def execBra (y : Bool) (cc : BitVec 2) (cond : BitVec 4) (off : BitVec 18) (s : State) : Host.Outcome State Fault Refusal :=
  issueS s fun h =>
    let takes := Mask.ofPred h.team.e0 fun t => h.active.has t && condPasses cond.toNat (h.team.ccOf cc.toNat t)
    s.transfer h y { word := wordOf (.bra y cc cond off), act := h.active,
                     ccRead := if cond = 0#4 ∨ cond = 15#4 then [] else [cc.toNat] }
      takes (fun _ => h.relative off.toInt) false

/-- JMP, offset form (R233). -/
def execJmp (y : Bool) (off : BitVec 24) (s : State) : Host.Outcome State Fault Refusal :=
  issueS s fun h =>
    s.transfer h y { word := wordOf (.jmp y off), act := h.active } h.active (fun _ => h.relative off.toInt) false

/-- JMP, register form (R233). -/
def execJmpReg (y : Bool) (a : BitVec 8) (s : State) : Host.Outcome State Fault Refusal :=
  issueS s fun h =>
    s.transfer h y { word := wordOf (.jmpReg y a), reads := [(a.toNat, 2)], act := h.active } h.active
      (fun t => h.readN a.toNat 2 t) false

/-- CALL, offset form (R236). -/
def execCall (y : Bool) (off : BitVec 24) (s : State) : Host.Outcome State Fault Refusal :=
  issueS s fun h =>
    s.transfer h y { word := wordOf (.call y off), act := h.active } h.active (fun _ => h.relative off.toInt) true

/-- CALL, register form (R236). -/
def execCallReg (y : Bool) (a : BitVec 8) (s : State) : Host.Outcome State Fault Refusal :=
  issueS s fun h =>
    s.transfer h y { word := wordOf (.callReg y a), reads := [(a.toNat, 2)], act := h.active } h.active
      (fun t => h.readN a.toNat 2 t) true

/-- RET (R236). -/
def execRet (y : Bool) (a : BitVec 8) (s : State) : Host.Outcome State Fault Refusal :=
  issueS s fun h =>
    s.transfer h y { word := wordOf (.ret y a), reads := [(a.toNat, 2)], act := h.active } h.active
      (fun t => h.readN a.toNat 2 t) false

/-! ### Reconvergence (R237, R238) -/

/-- Levels of the entry's join stack: join points and deferred sets (R38). Of a serial split the running part's own join points
count, and one level for each other part of its frame (log 112). -/
def Here.levels (h : Here) : Nat := h.frag.joins.length + h.parts.length

/-- The join numbers that live join points hold: those of fragments, of interrupted fragments and of snapshots. -/
def Team.joinNums (t : Team) : List Nat :=
  ((t.frags.flatMap fun f => f.joins ++ ((f.region.map (·.joins)).getD [])) ++ t.frames.flatMap (·.joins)).map (·.num)

/-- The next join number that no live join point holds (R237). -/
def Team.nextJoin (t : Team) : Nat :=
  let used := t.joinNums
  (((List.range (used.length + 1)).map fun k => (t.joinCtr + k) % 2 ^ 32).find? fun n => !used.contains n).getD t.joinCtr

/-- CONV (R237). -/
def execConv (y : Bool) (off : BitVec 24) (s : State) : Host.Outcome State Fault Refusal :=
  issue s fun h => h.run y { word := wordOf (.conv y off), guard := false } fun h =>
    if 16 ≤ h.levels then (h, some { cause := cILLOP, detail := wordOf (.conv y off) })
    else
      ({ h with team := { h.team with joinCtr := (h.team.nextJoin + 1) % 2 ^ 32 },
                frag := { h.frag with joins := { addr := BitVec.ofNat 48 (h.relative off.toInt), num := h.team.nextJoin } :: h.frag.joins } },
       none)

/-- FUSE (R238). -/
def execFuse (y : Bool) (s : State) : Host.Outcome State Fault Refusal :=
  issueS s fun h =>
    let h' := h.plain y { word := wordOf (.fuse y), guard := false } fun h =>
      match h.frag.joins with
      | j :: _ => if j.addr = h.frag.pc then Here.handOver { h with frag := { h.frag with park := .fuse } } else h
      | [] => h
    (s.put h').settle h.group.gid

/-! ### Ending lanes and meeting (R239 to R243) -/

/-- The fragment's outstanding operations have returned, and no fault of theirs waits (R239, R240). The faults that wait while a
retry is made are those of its park, which are delivered when it has returned (R86, R249). -/
def Here.quiet (h : Here) : Bool :=
  (h.team.outsOf h.frag).isEmpty && (h.frag.replay.isSome || (h.team.faultsOf h.frag).isEmpty)

/-- The register checks of an instruction that first waits for the fragment's outstanding operations: while some are under
way only those of the word itself and of bounds are made, which no return changes (R85, R219, R239, R240, R295). -/
def Here.checkQuiet (h : Here) (u : Uses) : Option Trap :=
  (h.check u).filter fun t => h.quiet || decide (t.cause ≤ cREGBOUND)

/-- The instruction waits for outstanding operations, and issues again (R239, R240, R295). -/
def Here.drain (h : Here) : Here := { h with frag := { h.frag with park := .drain } }

/-- End both kinds of region (R49, R136). -/
def Here.endRegions (h : Here) : Here :=
  let h := h.endIdem
  let (t, f) := h.team.newRegion h.frag
  { h with team := t, frag := f }

/-- Lanes of a fragment end (R239, R356): they leave the mask, the team's live lanes and the faults that wait. -/
def Here.exitLanes (h : Here) (act : Mask) : Here :=
  let live := h.team.live &&& ~~~act
  let f := { h.frag with mask := h.frag.mask &&& ~~~act }
  let gone := f.mask == 0#1024
  let frames := if gone then h.team.frames.map fun r =>
      if h.frag.frame = some r.id then
        { r with seq := f.seq, hist := (r.hist ++ f.hist).eraseDups, release := (r.release ++ f.release).eraseDups }
      else r
    else h.team.frames
  let frags := if gone then
      ((h.handOver.team.frags.filter fun e => !(e.entry == f.entry && e.part == f.part)).map fun (e : Frag) =>
        if e.entry = f.entry ∧ e.pusher = f.part then { e with pusher := if f.pusher = f.part then e.part else f.pusher } else e)
    else h.team.frags
  { h with
    team := { h.team with
      live := live, frames := frames,
      faults := (h.team.faults.map fun p => { p with lanes := p.lanes &&& live, deferred := p.deferred &&& live }).filter
        fun p => p.lanes ||| p.deferred != 0#1024,
      frags := frags },
    frag := f }

/-- The FIFO entries of a control-core context are discarded when it has exited (R173, R250). -/
def Group.coreEnd (g : Group) : Group :=
  match g.core with
  | some c => if c.exited then { g with munit := { g.munit with fa := [], fb := [], held := [] } } else g
  | none => g

/-- A context that exits in a handler ends the frame as a skip (R357), so the commands held after the faulted one are
performed before it ends (R239, R328; log 89). -/
def Here.resumeHeld (h : Here) : Here :=
  let g := Group.resumeHeld { h.group with core := some h.team } false none
  { h with group := g, team := g.core.getD h.team }

/-- EXIT (R239). On the control core the matrix unit first finishes every queued instruction. -/
def execExit (y : Bool) (s : State) : Host.Outcome State Fault Refusal :=
  issueS s fun h =>
    match h.checkQuiet { word := wordOf (.exit y), act := h.active } with
    | some t => s.put (h.raise h.active t)
    | none =>
      if !h.quiet || (h.team.isCore && !h.group.munit.queue.isEmpty) then s.put h.drain
      else if h.team.isCore && h.active != 0#1024 && !h.group.munit.held.isEmpty then s.put h.resumeHeld.drain
      else
        let act := h.active
        let h := h.endRegions
        let h := Here.exitLanes { h with frag := h.frag.finish y } act
        let s := s.put h
        let s := match s.group? h.group.gid with
          | some g => if h.team.isCore then s.setGroup g.coreEnd else s
          | none => s
        s.settlePair h.group.gid

/-- The shared course of BAR and RDV (R240). Both end the fragment's idempotent region; its consistency region ends here for
RDV, and at completion for BAR (R136). -/
def State.arrive (s : State) (h : Here) (y illop : Bool) (w : Word) (p : Park) : State :=
  match h.checkQuiet { word := w, illop := illop, guard := false } with
  | some t => s.put (h.raise h.frag.acting t)
  | none =>
    if !h.quiet then s.put h.drain
    else if h.mixed p then s.put (h.raise h.frag.acting { cause := cILLOP, detail := w })
    else
      let h := if p = .rdv then h.endRegions else h.endIdem
      let h := Here.handOver { h with frag := { h.frag with park := p } }
      (s.put { h with frag := h.frag.finish y }).settle h.group.gid

/-- BAR (R240). -/
def execBar (y : Bool) (n : BitVec 2) (s : State) : Host.Outcome State Fault Refusal :=
  issueS s fun h => s.arrive h y h.team.isCore (wordOf (.bar y n)) (.bar n.toNat)

/-- RDV (R241). -/
def execRdv (y : Bool) (s : State) : Host.Outcome State Fault Refusal :=
  issueS s fun h => s.arrive h y false (wordOf (.rdv y)) .rdv

/-- ACQUIRE: park until the growth is granted; a later one does nothing (R242). -/
def execAcquire (y : Bool) (s : State) : Host.Outcome State Fault Refusal :=
  issue s fun h => h.plain y { word := wordOf (.acquire y), illop := h.team.isCore, guard := false } fun h =>
    if h.team.acquired then h else { h with frag := { h.frag with park := .acquire } }

/-- FORK: check, and park until it is granted in order (R243). Its ALIGN comes before its ILLOP, and both are of every lane of the mask
(log 82, 132). -/
def execFork (y : Bool) (a b : BitVec 8) (s : State) : Host.Outcome State Fault Refusal :=
  issue s fun h =>
    let w := wordOf (.fork y a b)
    let cv := ((s.launchOf h.group).map (·.hdr.cv)).getD 0
    let lane := h.frag.acting.lowest h.team.e0
    h.run y { word := w, illop := h.team.isCore, guard := false,
              reads := [(a.toNat, 2), (b.toNat, 2)], act := h.frag.acting,
              poison := some (h.poisonRead { word := w, reads := [(a.toNat, 2), (b.toNat, 2)], act := BitVec.ofNat 1024 (2 ^ lane) }) } fun h =>
      let entry := h.readN a.toNat 2 lane
      if entry % 4 ≠ 0 then
        (h, some { cause := cALIGN, lanes := some h.frag.acting, addr := entry, detail := 0x80000000#32 })
      else if cv = (0 : Nat) ∨ h.group.coreRuns = true then (h, some { cause := cILLOP, lanes := some h.frag.acting, detail := w })
      else
        let h := h.endRegions
        (Here.handOver { h with frag := { h.frag with park := .fork (entry % 2 ^ 48) (h.readN b.toNat 2 lane) (s.forkTail h.group.cluster) w } }, none)

/-! ### The mode register, regions and time (R244 to R247) -/

/-- SETMODE (R244). -/
def execSetmode (y : Bool) (m : BitVec 23) (s : State) : Host.Outcome State Fault Refusal :=
  issue s fun h => h.plain y { word := wordOf (.setmode y m), illop := !modeImageOk m, guard := false } fun h =>
    { h with frag := { h.frag with mode := m.zeroExtend 24 } }

/-- GETMODE: every lane of the mask, the guard ignored (R245). -/
def execGetmode (y : Bool) (d : BitVec 8) (s : State) : Host.Outcome State Fault Refusal :=
  issue s fun h =>
    let sh : Shape := if h.team.isCore ∨ h.frag.acting = h.team.live then .u else .g
    h.plain y { word := wordOf (.getmode y d), writes := [(d.toNat, 1)], guard := false, act := h.frag.acting,
                grow := growOf sh d.toNat 1 } fun h =>
      h.write d.toNat 1 h.frag.acting sh fun _ => h.frag.mode.toNat

/-- The deferred sets of the entry's join stack, which have not run yet (R38). -/
def Here.deferredSets (h : Here) : List DeferredSet :=
  (h.parts.filter (·.waits)).map fun f => { part := f.part, pc := f.pc, mask := f.mask, mode := f.mode }

/-- IREGION: the snapshot of R49 (R246). -/
def execIregion (y : Bool) (s : State) : Host.Outcome State Fault Refusal :=
  issue s fun h => h.plain y { word := wordOf (.iregion y), illop := h.team.isCore, guard := false } fun h =>
    let snap : Snapshot :=
      { pc := h.frag.pc + 4#48, mask := h.frag.mask, joins := h.frag.joins, deferred := h.deferredSets, mode := h.frag.mode, fpctl := h.team.fpctl,
        acquired := h.team.acquired }
    let h := h.endIdem
    { h with frag := { h.frag with region := some snap } }

/-- CYC − target, read as a signed 32-bit value, is zero or positive (R247). -/
def sleepOver (clock : Nat) (target : Word) : Bool := !(BitVec.ofNat 32 clock - target).getLsbD 31

/-- SLEEPUNTIL (R247). -/
def execSleepuntil (y : Bool) (a : BitVec 8) (s : State) : Host.Outcome State Fault Refusal :=
  issue s fun h => h.plain y { word := wordOf (.sleepuntil y a), reads := [(a.toNat, 1)], guard := false, act := h.frag.acting }
    fun h =>
      let ts := (h.frag.acting.lanes h.team.e0).map fun t => h.read a.toNat t
      if ts.all (sleepOver h.clock) then h else Here.handOver { h with frag := { h.frag with park := .sleep ts } }

/-! ### Software traps and return (R248 to R250) -/

/-- TRAP (R248). -/
def execTrap (y : Bool) (code : BitVec 24) (s : State) : Host.Outcome State Fault Refusal :=
  issue s fun h => h.run y { word := wordOf (.trap y code), act := h.active } fun h =>
    (h, if h.active = 0#1024 then none else some { cause := cSWTRAP, lanes := some h.active, detail := code.zeroExtend 32 })

/-- The three forms of TRET. -/
inductive TretForm where
  | retry | skip | term
  deriving DecidableEq, Repr

/-- The shared course of TRET: the lanes choose, and park until every lane of the handler has chosen or exited (R357). -/
def State.tret (s : State) (h : Here) (y : Bool) (w : Word) (form : TretForm) : State :=
  let h' := h.plain y { word := w, illop := h.frag.frame.isNone, guard := false } fun h =>
    let m := h.frag.mask
    let choose (r : Frame) : Frame :=
      match form with
      | .retry => { r with retry := r.retry ||| m }
      | .skip => { r with skip := r.skip ||| m }
      | .term => { r with term := r.term ||| m }
    match h.frag.frame.bind h.team.frame? with
    | some r => Here.handOver { h with team := h.team.setFrame (choose r), frag := { h.frag with park := .tret } }
    | none => h
  (s.put h').settle h.group.gid

/-- TRET, retry (R249). -/
def execTretRetry (y : Bool) (s : State) : Host.Outcome State Fault Refusal :=
  issueS s fun h => s.tret h y (wordOf (.tretRetry y)) .retry
/-- TRET, skip (R249). -/
def execTretSkip (y : Bool) (s : State) : Host.Outcome State Fault Refusal :=
  issueS s fun h => s.tret h y (wordOf (.tretSkip y)) .skip
/-- TRET, terminate (R249, R250). -/
def execTretTerm (y : Bool) (s : State) : Host.Outcome State Fault Refusal :=
  issueS s fun h => s.tret h y (wordOf (.tretTerm y)) .term

end Sys2Proof.Machine
end

