-- ==== Sys2Proof/Machine/Trans.lean ====
section
/-!
DEFINITION. Division, roots and transcendental functions, correctly rounded (13 R278, R279). An inexact value is given
to `round` with one more odd bit below its precision; a transcendental value is enclosed between two fixed-point
numbers, whose precision is raised until both ends round alike (log 15).
-/
namespace Sys2Proof.Machine

/-- A magnitude whose exact value lies strictly between `m` and `m + 1` when `sticky`, times 2^e. -/
def stickyNum (neg : Bool) (m : Nat) (e : Int) (sticky : Bool) : Num :=
  .fin neg (2 * m + (if sticky then 1 else 0)) (e - 1)

/-- The integer square root, bit by bit from bit `k` down. -/
def isqrtFrom : Nat → Nat → Nat → Nat
  | 0, _, r => r
  | k + 1, n, r => isqrtFrom k n (if (r + 2 ^ k) * (r + 2 ^ k) ≤ n then r + 2 ^ k else r)
/-- floor(√n). -/
def isqrt (n : Nat) : Nat := isqrtFrom (log2 n / 2 + 1) n 0

/-- A quotient of finite non-zero values, to at least p + 3 bits. -/
def divNum (p : Nat) (an : Bool) (am : Nat) (ae : Int) (bn : Bool) (bm : Nat) (be : Int) : Num :=
  let k := p + 3 + log2 bm
  stickyNum (an != bn) (am * 2 ^ k / bm) (ae - be - k) (am * 2 ^ k % bm != 0)

/-- The square root of a positive value. -/
def sqrtNum (p : Nat) (m : Nat) (e : Int) : Num :=
  let k := 2 * (p + 3)
  let odd := e % 2 != 0
  let m' := m * 2 ^ (if odd then k + 1 else k)
  let e' := (if odd then e - 1 else e) - k
  let r := isqrt m'
  stickyNum false r (e' / 2) (r * r != m')

/-- The reciprocal square root of a positive value. -/
def rsqrtNum (p : Nat) (m : Nat) (e : Int) : Num :=
  let odd := e % 2 != 0
  let m' := if odd then 2 * m else m
  let e' := if odd then e - 1 else e
  let k := p + 3 + log2 m'
  let r := isqrt (2 ^ (2 * k) / m')
  stickyNum false r (-k - e' / 2) (r * r * m' != 2 ^ (2 * k))

/-! ### Enclosures: a value times 2^P lies between the two integers -/

/-- sum of 1 / (j q^j) over odd j, scaled: atanh(1/q) with `alt` false, atan(1/q) with `alt` true. -/
def atanSeries : Nat → Nat → Nat → Nat → Bool → Bool → Int → Int
  | 0, _, _, _, _, _, acc => acc
  | fuel + 1, pw, q2, j, neg, alt, acc =>
    if pw = 0 then acc
    else atanSeries fuel (pw / q2) q2 (j + 2) (alt && !neg) alt (acc + (if neg then -((pw / j : Nat) : Int) else (pw / j : Nat)))

/-- atan(1/q) or atanh(1/q) times 2^P, within 2P + 2 of the value. -/
def atanInv (P q : Nat) (alt : Bool) : Int := atanSeries (P + 2) (2 ^ P / q) (q * q) 1 false alt 0

/-- ln 2 times 2^P: 2 atanh(1/3), within 4P + 4. -/
def ln2At (P : Nat) : Int := 2 * atanInv P 3 false
/-- π times 2^P: 16 atan(1/5) − 4 atan(1/239), within 40P + 40. -/
def piAt (P : Nat) : Int := 16 * atanInv P 5 true - 4 * atanInv P 239 true

/-- The series of exp, sin or cos from the term t (index j): each next term is t x^step / (j + 1) … (j + step). -/
def expSeries : Nat → Nat → Int → Int → Nat → Bool → Int → Int
  | 0, _, _, _, _, _, acc => acc
  | fuel + 1, P, x, t, j, two, acc =>
    if t = 0 then acc
    else
      let t' : Int := if two then -(t * x / (2 ^ P : Nat)) / (((j + 1) * (j + 2) : Nat) : Int)
        else t * x / (2 ^ P : Nat) / ((j + 1 : Nat) : Int)
      expSeries fuel P x (if t' = -1 then 0 else t') (if two then j + 2 else j + 1) two (acc + t)

/-- ln of m / 2^k in [1, 2), times 2^P: 2 atanh((m − 2^k) / (m + 2^k)), within 8P + 16. -/
def lnSeries : Nat → Nat → Int → Int → Nat → Int → Int
  | 0, _, _, _, _, acc => acc
  | fuel + 1, P, z2, pw, j, acc =>
    if pw = 0 then acc else lnSeries fuel P z2 (pw * z2 / (2 ^ P : Nat)) (j + 2) (acc + pw / (j : Int))

/-- 2^(m × 2^e) for a value that is no integer, as a mantissa at 2^−P between the two and an exponent of two. -/
def exp2At (P : Nat) (x : Num) : Int × Int × Int :=
  -- the value as fixed point at P: exact, or its floor
  let v : Int := match x with
    | .fin n m e =>
        let a : Int := if n then -(m : Int) else m
        if 0 ≤ (P : Int) + e then a * (2 ^ ((P : Int) + e).toNat : Nat) else Int.fdiv a (2 ^ (-((P : Int) + e)).toNat : Nat)
    | _ => 0
  let n := Int.fdiv v (2 ^ P : Nat)
  let f := v - n * (2 ^ P : Nat)
  let y := expSeries (P + 8) P (f * ln2At P / (2 ^ P : Nat)) (2 ^ P : Nat) 0 false 0
  let err : Int := 64 * P + 256
  (y - err, y + err, n)

/-- log2 of m × 2^e, times 2^P. -/
def log2At (P m : Nat) (e : Int) : Int × Int :=
  let k := log2 m
  let z : Int := ((m - 2 ^ k) * 2 ^ P / (m + 2 ^ k) : Nat)
  let ln := 2 * lnSeries (P + 8) P (z * z / (2 ^ P : Nat)) z 1 0
  let y := ln * (2 ^ P : Nat) / ln2At P + (e + k) * (2 ^ P : Nat)
  let err : Int := 64 * P + 256
  (y - err, y + err)

/-- sin or cos of m × 2^e (a non-negative value), times 2^P: the argument is reduced against π with as many more bits as
its magnitude has. -/
def sinCosAt (P m : Nat) (e : Int) (cosine : Bool) : Int × Int :=
  let extra := (((log2 m : Nat) : Int) + e + 8).toNat
  let W := P + extra + 16
  let half := piAt W / 2
  let v : Int := if 0 ≤ (W : Int) + e then (m : Int) * (2 ^ ((W : Int) + e).toNat : Nat)
    else (m / 2 ^ (-((W : Int) + e)).toNat : Nat)
  let k := Int.fdiv (2 * v + half) (2 * half)
  let r := Int.fdiv (v - k * half) (2 ^ (extra + 16) : Nat)
  let q := ((if cosine then k + 1 else k) % 4).toNat
  let x2 := r * r / (2 ^ P : Nat)
  let y := if q % 2 = 0 then expSeries (P + 8) P x2 r 1 true 0 else expSeries (P + 8) P x2 (2 ^ P : Nat) 0 true 0
  let y := if q / 2 = 0 then y else -y
  let err : Int := 64 * P + 4096
  (y - err, y + err)

/-- Round both ends of an enclosure; they settle the result when they agree. -/
def roundBetween (f : Format) (rm : Nat) (ftz : Bool) (P : Nat) (lo hi : Int) (e : Int) : Option (Nat × FFlags) :=
  if lo ≤ 0 ∧ 0 ≤ hi then none
  else
    let neg := decide (hi < 0)
    let a := if neg then (-hi).toNat else lo.toNat
    let b := if neg then (-lo).toNat else hi.toNat
    let ra := round (stickyNum neg a (e - P) true) f rm false ftz
    let rb := round (stickyNum neg (b - 1) (e - P) true) f rm false ftz
    if ra = rb then some ra else none

/-- The functions of one operand that return late. -/
inductive FFun where
  | exp2 | log2 | sin | cos
  deriving DecidableEq, Repr

/-- Try rising precisions; a value that none settles is free (log 15). -/
def settle (g : FFun) (f : Format) (rm : Nat) (ftz : Bool) (pat : Nat) (neg : Bool) (m : Nat) (e : Int) :
    List Nat → Nat × FFlags
  | [] =>
    let w := Config.freeRounded (match g with | .exp2 => 0 | .log2 => 1 | .sin => 2 | .cos => 3) pat
    (w.toNat % 2 ^ f.bits, fNX)
  | P :: ps =>
    let r := match g with
      | .exp2 => let t := exp2At P (.fin neg m e); roundBetween f rm ftz P t.1 t.2.1 t.2.2
      | .log2 => let t := log2At P m e; roundBetween f rm ftz P t.1 t.2 0
      | .sin => let t := sinCosAt P m e false
                if neg then roundBetween f rm ftz P (-t.2) (-t.1) 0 else roundBetween f rm ftz P t.1 t.2 0
      | .cos => let t := sinCosAt P m e true; roundBetween f rm ftz P t.1 t.2 0
    match r with
    | some r => r
    | none => settle g f rm ftz pat neg m e ps

/-- The precisions tried. -/
def precisions : List Nat := [128, 256, 512, 1280, 2560]

/-- A value next to `m × 2^e`, above or below it by less than any precision shows. -/
def nudge (neg : Bool) (m : Nat) (e : Int) (up : Bool) : Num :=
  .fin neg (if up then m * 2 ^ 64 + 1 else m * 2 ^ 64 - 1) (e - 64)

/-- A finite non-zero operand of FEXP2, FLOG2, FSIN or FCOS (R278). -/
def transFinite (g : FFun) (f : Format) (rm : Nat) (ftz : Bool) (pat : Nat) (neg : Bool) (m : Nat) (e : Int) : Nat × FFlags :=
  let lg : Int := (Machine.log2 m : Int) + e
  let small := decide (lg < -70)
  match g with
  | .exp2 =>
      if 0 ≤ e ∨ m % 2 ^ (-e).toNat = 0 then
        let n : Int := if 0 ≤ e then (m * 2 ^ (min e 40).toNat : Nat) else (m / 2 ^ (-e).toNat : Nat)
        round (.fin false 1 (max (-40000) (min 40000 (if neg then -n else n)))) f rm false ftz
      else if small then round (nudge false 1 0 (!neg)) f rm false ftz
      else if 20 < lg then round (nudge false 1 (if neg then -40000 else 40000) true) f rm false ftz
      else settle g f rm ftz pat neg m e precisions
  | .log2 =>
      if m = 2 ^ Machine.log2 m then round (Num.ofInt lg) f rm false ftz
      else settle g f rm ftz pat neg m e precisions
  | .sin =>
      if small then round (nudge neg m e false) f rm false ftz else settle g f rm ftz pat neg m e precisions
  | .cos =>
      if small then round (nudge false 1 0 false) f rm false ftz else settle g f rm ftz pat neg m e precisions

end Sys2Proof.Machine
end

