-- ==== Sys2Proof/Machine/Float.lean ====
section
/-!
DEFINITION. Floating-point instructions, opcodes 0x34 to 0x45 (13 R272 to R286).
-/
namespace Sys2Proof.Machine

/-- The operand of lane `t` as a pattern of F. -/
def Here.fpat (h : Here) (r : BitVec 8) (t : Nat) : Nat := h.readN r.toNat h.words t % 2 ^ h.format.bits
/-- The operand decoded, a subnormal read as zero under FTZ (R272). -/
def Here.fnum (h : Here) (r : BitVec 8) (t : Nat) : Num := flushInput h.format h.ftz (decodeNum h.format (h.fpat r t))

/-- IV when an input is a signalling NaN (R96). -/
def snanFlag (xs : List Num) : FFlags := if xs.any (·.isSnan) then fIV else 0#5

/-- The flags a float instruction writes under CCW (R274). -/
def floatFlags (f : Format) (p : Nat) : Flags :=
  { n := f.signBit p, z := decide (p % 2 ^ (f.bits - 1) = 0), c := false, v := (decodeNum f p).isNan }

/-- What a float instruction names; any TYPE of 0 to 7 traps ILLOP (R272). -/
def Here.fpUses (h : Here) (w : Word) (illop ccw : Bool) (d : BitVec 8) (reads : List (BitVec 8)) : Uses :=
  { word := w, illop := illop || h.format.isInt, writes := [(d.toNat, h.words)],
    reads := reads.map fun r => (r.toNat, h.words), ccWrite := if ccw then h.ccw else none, act := h.active,
    grow := growOf (h.resShape .other reads) d.toNat h.words }

/-- The shared course of a fixed-latency float instruction: results, flags of FPCTL, FPEXC, and the condition codes of
the lanes that are written (R272 to R275). -/
def Here.fpOp (h : Here) (y : Bool) (w : Word) (illop : Bool) (d : BitVec 8) (reads : List (BitVec 8))
    (f : Nat → Nat × FFlags) : Here :=
  h.run y (h.fpUses w illop true d reads) fun h =>
    let r := h.writeFp d.toNat h.words h.active (h.resShape .other reads) f
    let bad := (r.2.bind (·.lanes)).getD 0#1024
    (r.1.writeFlags (h.active &&& ~~~bad) fun t => floatFlags h.format (f t).1, r.2)

/-- The shared course of a special-function operation: its result and flags return late, with everything sampled at
issue (R273, R278). -/
def Here.fpLong (h : Here) (y : Bool) (w : Word) (d : BitVec 8) (reads : List (BitVec 8)) (f : Nat → Nat × FFlags) : Here :=
  let bad := Mask.ofPred h.team.e0 fun t => h.active.has t && (enabledFlags h.team.fpctl (f t).2 != 0#5)
  let lanes := (h.active &&& ~~~bad).lanes h.team.e0
  let raised := allFlags (h.active.lanes h.team.e0) fun t => (f t).2
  let enabled := allFlags (bad.lanes h.team.e0) fun t => enabledFlags h.team.fpctl (f t).2
  h.runLong y { h.fpUses w false true d reads with long := true } fun o =>
    ({ o with data := lanes.map (fun t => (t, (f t).1)), ccData := lanes.map (fun t => (t, floatFlags h.format (f t).1)),
              fp := BitVec.ofNat 32 (raised.toNat * 16) },
     if bad = 0#1024 then []
     else [{ cause := cFPEXC, lanes := some bad, detail := BitVec.ofNat 32 (enabled.toNat * 16), dest := o.dst }])

/-! ### Exact operations (R277) -/

/-- The exact sum of two values; invalid for infinities of opposite sign. An exact zero from a cancellation is +0, or −0
under RDN. -/
def addNum (rm : Nat) (x y : Num) : Num × FFlags :=
  if x.isNan || y.isNan then (.nan false, snanFlag [x, y])
  else
    match x, y with
    | .inf a, .inf b => if a = b then (.inf a, 0#5) else (.nan false, fIV)
    | .inf a, _ => (.inf a, 0#5)
    | _, .inf b => (.inf b, 0#5)
    | _, _ =>
        let e := min x.exponent y.exponent
        (Num.ofScaled (x.scaled e + y.scaled e) e (if x.neg? = y.neg? then x.neg? else rm == 4), 0#5)

/-- The exact product; invalid for 0 × ∞. -/
def mulNum (x y : Num) : Num × FFlags :=
  if (x.isInf && y.isZero) || (x.isZero && y.isInf) then (.nan false, fIV)
  else if x.isNan || y.isNan then (.nan false, snanFlag [x, y])
  else
    let neg := x.neg? != y.neg?
    if x.isInf || y.isInf then (.inf neg, 0#5)
    else
      match x, y with
      | .fin _ a e, .fin _ b e' => (.fin neg (a * b) (e + e'), 0#5)
      | _, _ => (.nan false, 0#5)

/-- Round an exact result of F, with the flags its operation raised. -/
def Here.roundF (h : Here) (r : Num × FFlags) : Nat × FFlags :=
  let p := round r.1 h.format h.rnd false h.ftz
  (p.1, p.2 ||| r.2)

/-- FADD (R277). -/
def execFadd (y : Bool) (d a b : BitVec 8) (s : State) : Host.Outcome State Fault Refusal :=
  issue s fun h => h.fpOp y (wordOf (.fadd y d a b)) false d [a, b] fun t =>
    h.roundF (addNum h.rnd (h.fnum a t) (h.fnum b t))
/-- FSUB (R277). -/
def execFsub (y : Bool) (d a b : BitVec 8) (s : State) : Host.Outcome State Fault Refusal :=
  issue s fun h => h.fpOp y (wordOf (.fsub y d a b)) false d [a, b] fun t =>
    h.roundF (addNum h.rnd (h.fnum a t) (h.fnum b t).negate)
/-- FMUL (R277). -/
def execFmul (y : Bool) (d a b : BitVec 8) (s : State) : Host.Outcome State Fault Refusal :=
  issue s fun h => h.fpOp y (wordOf (.fmul y d a b)) false d [a, b] fun t =>
    h.roundF (mulNum (h.fnum a t) (h.fnum b t))

/-- A × B + D, exactly: 0 × ∞ raises IV whatever the addend (R277). -/
def fmaNum (rm : Nat) (x y d : Num) : Num × FFlags :=
  let p := mulNum x y
  if p.1.isNan then (.nan false, p.2 ||| snanFlag [x, y, d])
  else let q := addNum rm p.1 d; (q.1, p.2 ||| q.2)

/-- FFMA (R277). -/
def execFfma (y : Bool) (d a b : BitVec 8) (s : State) : Host.Outcome State Fault Refusal :=
  issue s fun h => h.fpOp y (wordOf (.ffma y d a b)) false d [d, a, b] fun t =>
    h.roundF (fmaNum h.rnd (h.fnum a t) (h.fnum b t) (h.fnum d t))

/-! ### Minimum, maximum, sign, comparison, class and integral rounding -/

/-- A flushed operand as a pattern again. -/
def flushPat (f : Format) (ftz : Bool) (p : Nat) : Nat :=
  match decodeNum f p with
  | .fin n m e => if (flushInput f ftz (.fin n m e)).isZero then (if n then 2 ^ (f.bits - 1) else 0) else p
  | _ => p

/-- minimumNumber or maximumNumber of two patterns (R280); −0 is below +0. -/
def minMax (f : Format) (ftz isMin : Bool) (p q : Nat) : Nat × FFlags :=
  let x := flushInput f ftz (decodeNum f p)
  let y := flushInput f ftz (decodeNum f q)
  let fl := snanFlag [x, y]
  if x.isNan && y.isNan then (f.nanCode, fl)
  else if x.isNan then (flushPat f ftz q, fl)
  else if y.isNan then (flushPat f ftz p, fl)
  else
    let c := x.cmp y
    let less := decide (c < 0) || (decide (c = 0) && x.neg? && !y.neg?)
    (if less = isMin then flushPat f ftz p else flushPat f ftz q, fl)

/-- FMIN (R280). -/
def execFmin (y : Bool) (d a b : BitVec 8) (s : State) : Host.Outcome State Fault Refusal :=
  issue s fun h => h.fpOp y (wordOf (.fmin y d a b)) false d [a, b] fun t =>
    minMax h.format h.ftz true (h.fpat a t) (h.fpat b t)
/-- FMAX (R280). -/
def execFmax (y : Bool) (d a b : BitVec 8) (s : State) : Host.Outcome State Fault Refusal :=
  issue s fun h => h.fpOp y (wordOf (.fmax y d a b)) false d [a, b] fun t =>
    minMax h.format h.ftz false (h.fpat a t) (h.fpat b t)

/-- FSGN of two patterns (R281). -/
def fsgnPat (f : Format) (ftz : Bool) (p q : Nat) : Nat × FFlags :=
  let x := decodeNum f p
  if x.isNan then (f.nanCode, snanFlag [x])
  else (flushPat f ftz p % 2 ^ (f.bits - 1) + (if f.signBit q then 2 ^ (f.bits - 1) else 0), 0#5)

/-- FSGN (R281). -/
def execFsgn (y : Bool) (d a b : BitVec 8) (s : State) : Host.Outcome State Fault Refusal :=
  issue s fun h => h.fpOp y (wordOf (.fsgn y d a b)) false d [a, b] fun t =>
    fsgnPat h.format h.ftz (h.fpat a t) (h.fpat b t)

/-- The flags of a comparison (R282). -/
def cmpFlags (x y : Num) : Flags :=
  if x.isNan || y.isNan then { n := false, z := false, c := true, v := true }
  else
    let c := x.cmp y
    { n := decide (c < 0), z := decide (c = 0), c := decide (0 ≤ c), v := false }

/-- FCMP (R282): a signalling NaN raises IV; a lane that traps writes no flags (R273, R274). -/
def execFcmp (y : Bool) (a b : BitVec 8) (s : State) : Host.Outcome State Fault Refusal :=
  issue s fun h =>
    h.run y { word := wordOf (.fcmp y a b), illop := h.format.isInt, reads := [(a.toNat, h.words), (b.toNat, h.words)],
              ccWrite := h.ccw, act := h.active } fun h =>
      if modeCcw h.frag.mode = 0 then (h, none)
      else
        let fl (t : Nat) : FFlags := snanFlag [h.fnum a t, h.fnum b t]
        let bad := Mask.ofPred h.team.e0 fun t => h.active.has t && (enabledFlags h.team.fpctl (fl t) != 0#5)
        let raised := allFlags (h.active.lanes h.team.e0) fl
        let h' := h.writeFlags (h.active &&& ~~~bad) fun t => cmpFlags (h.fnum a t) (h.fnum b t)
        ({ h' with team := h'.team.raiseFp raised },
         if bad = 0#1024 then none
         else some { cause := cFPEXC, lanes := some bad, detail := BitVec.ofNat 32 (fIV.toNat * 16) })

/-- The class of a pattern, as the number of the bit that FCLASS sets (R283). -/
def classOf (f : Format) (p : Nat) : Nat :=
  match decodeNum f p with
  | .inf true => 0
  | .inf false => 7
  | .nan true => 8
  | .nan false => 9
  | .fin neg m e =>
      if m = 0 then (if neg then 3 else 4)
      else if (log2 m : Int) + e < f.emin then (if neg then 2 else 5)
      else if neg then 1 else 6

/-- FCLASS: no flags and no condition code (R274, R283). -/
def execFclass (y : Bool) (d a : BitVec 8) (s : State) : Host.Outcome State Fault Refusal :=
  issue s fun h =>
    h.run y (h.fpUses (wordOf (.fclass y d a)) false false d [a]) fun h =>
      (h.write d.toNat h.words h.active (h.resShape .other [a]) fun t => 2 ^ classOf h.format (h.fpat a t), none)

/-- Round a pattern to an integral value (R284). -/
def frndPat (f : Format) (rm : Nat) (ftz : Bool) (p : Nat) : Nat × FFlags :=
  let x := flushInput f ftz (decodeNum f p)
  match x with
  | .nan s => (f.nanCode, if s then fIV else 0#5)
  | .inf _ => (p, 0#5)
  | .fin neg m e =>
      let r := roundToInt rm neg m e
      ((round (.fin neg r.1.natAbs 0) f rm false false).1, 0#5)

/-- FRND (R284). -/
def execFrnd (y : Bool) (d a k : BitVec 8) (s : State) : Host.Outcome State Fault Refusal :=
  issue s fun h => h.fpOp y (wordOf (.frnd y d a k)) (decide (5 < k.toNat)) d [a] fun t =>
    frndPat h.format (if k = 0#8 then h.rnd else k.toNat) h.ftz (h.fpat a t)

/-! ### Division, roots and the transcendental functions (R278, R279) -/

/-- FDIV of two values. -/
def fdivRes (f : Format) (rm : Nat) (ftz : Bool) (x y : Num) : Nat × FFlags :=
  let neg := x.neg? != y.neg?
  if x.isNan || y.isNan then (f.nanCode, snanFlag [x, y])
  else
    match x, y with
    | .inf _, .inf _ => (f.nanCode, fIV)
    | .inf _, _ => (f.infCode neg, 0#5)
    | _, .inf _ => (round (.fin neg 0 0) f rm false ftz).1 |> fun z => (z, 0#5)
    | .fin an am ae, .fin bn bm be =>
        if bm = 0 then (if am = 0 then (f.nanCode, fIV) else (f.infCode neg, fDZ))
        else if am = 0 then ((round (.fin neg 0 0) f rm false ftz).1, 0#5)
        else round (divNum f.prec an am ae bn bm be) f rm false ftz
    | _, _ => (f.nanCode, 0#5)

/-- FRSQ and FSQRT of a value. -/
def rootRes (f : Format) (rm : Nat) (ftz recip : Bool) (x : Num) : Nat × FFlags :=
  match x with
  | .nan s => (f.nanCode, if s then fIV else 0#5)
  | .inf true => (f.nanCode, fIV)
  | .inf false => if recip then (0, 0#5) else (f.infCode false, 0#5)
  | .fin neg m e =>
      if m = 0 then
        if recip then (f.infCode neg, fDZ) else ((round x f rm false ftz).1, 0#5)
      else if neg then (f.nanCode, fIV)
      else if recip then round (rsqrtNum f.prec m e) f rm false ftz
      else round (sqrtNum f.prec m e) f rm false ftz

/-- FEXP2, FLOG2, FSIN and FCOS of a value. -/
def transRes (g : FFun) (f : Format) (rm : Nat) (ftz : Bool) (pat : Nat) (x : Num) : Nat × FFlags :=
  let one := (round (.fin false 1 0) f rm false ftz).1
  match x with
  | .nan s => (f.nanCode, if s then fIV else 0#5)
  | .inf neg =>
      match g with
      | .exp2 => if neg then (0, 0#5) else (f.infCode false, 0#5)
      | .log2 => if neg then (f.nanCode, fIV) else (f.infCode false, 0#5)
      | _ => (f.nanCode, fIV)
  | .fin neg m e =>
      if m = 0 then
        match g with
        | .exp2 | .cos => (one, 0#5)
        | .log2 => (f.infCode true, fDZ)
        | .sin => ((round x f rm false ftz).1, 0#5)
      else if neg && g == .log2 then (f.nanCode, fIV)
      else transFinite g f rm ftz pat neg m e

/-- FRCP: FDIV of 1 (R278). -/
def execFrcp (y : Bool) (d a : BitVec 8) (s : State) : Host.Outcome State Fault Refusal :=
  issue s fun h => h.fpLong y (wordOf (.frcp y d a)) d [a] fun t =>
    fdivRes h.format h.rnd h.ftz (.fin false 1 0) (h.fnum a t)
/-- FRSQ (R278). -/
def execFrsq (y : Bool) (d a : BitVec 8) (s : State) : Host.Outcome State Fault Refusal :=
  issue s fun h => h.fpLong y (wordOf (.frsq y d a)) d [a] fun t => rootRes h.format h.rnd h.ftz true (h.fnum a t)
/-- FSQRT (R278). -/
def execFsqrt (y : Bool) (d a : BitVec 8) (s : State) : Host.Outcome State Fault Refusal :=
  issue s fun h => h.fpLong y (wordOf (.fsqrt y d a)) d [a] fun t => rootRes h.format h.rnd h.ftz false (h.fnum a t)
/-- FDIV (R278). -/
def execFdiv (y : Bool) (d a b : BitVec 8) (s : State) : Host.Outcome State Fault Refusal :=
  issue s fun h => h.fpLong y (wordOf (.fdiv y d a b)) d [a, b] fun t =>
    fdivRes h.format h.rnd h.ftz (h.fnum a t) (h.fnum b t)
/-- FEXP2 (R278). -/
def execFexp2 (y : Bool) (d a : BitVec 8) (s : State) : Host.Outcome State Fault Refusal :=
  issue s fun h => h.fpLong y (wordOf (.fexp2 y d a)) d [a] fun t =>
    transRes .exp2 h.format h.rnd h.ftz (h.fpat a t) (h.fnum a t)
/-- FLOG2 (R278). -/
def execFlog2 (y : Bool) (d a : BitVec 8) (s : State) : Host.Outcome State Fault Refusal :=
  issue s fun h => h.fpLong y (wordOf (.flog2 y d a)) d [a] fun t =>
    transRes .log2 h.format h.rnd h.ftz (h.fpat a t) (h.fnum a t)
/-- FSIN (R278). -/
def execFsin (y : Bool) (d a : BitVec 8) (s : State) : Host.Outcome State Fault Refusal :=
  issue s fun h => h.fpLong y (wordOf (.fsin y d a)) d [a] fun t =>
    transRes .sin h.format h.rnd h.ftz (h.fpat a t) (h.fnum a t)
/-- FCOS (R278). -/
def execFcos (y : Bool) (d a : BitVec 8) (s : State) : Host.Outcome State Fault Refusal :=
  issue s fun h => h.fpLong y (wordOf (.fcos y d a)) d [a] fun t =>
    transRes .cos h.format h.rnd h.ftz (h.fpat a t) (h.fnum a t)

end Sys2Proof.Machine
end

