-- ==== Sys2Proof/Machine/Lane.lean ====
section
/-!
DEFINITION. Lane and team instructions, opcodes 0x46 to 0x50 (14 R287 to R302).
-/
namespace Sys2Proof.Machine

/-- The n-bit pattern of an operand in TYPE, whatever TYPE is (R287). -/
def Here.tpat (h : Here) (r : BitVec 8) (t : Nat) : Nat := h.readN r.toNat h.words t % 2 ^ h.format.bits

/-- A pattern placed in its word or pair as R73 states. -/
def Here.tplace (h : Here) (p : Nat) : Nat := placeIn h.format p

/-- U under a full mask and G otherwise: the shape of one value for every active lane. -/
def Here.oneShape (h : Here) : Shape := if h.team.isCore ∨ h.active = h.team.live then .u else .g
/-- The shape of a result that LANE enters: G, or U on the control core. -/
def Here.laneShape (h : Here) : Shape := if h.team.isCore then .u else .g

/-- What a collective names: destination and source in TYPE. -/
def Here.laneUses (h : Here) (w : Word) (illop flags long : Bool) (d : BitVec 8) (reads : List (BitVec 8)) (sh : Shape) : Uses :=
  { word := w, illop := illop, writes := [(d.toNat, h.words)], reads := reads.map fun r => (r.toNat, h.words), long := long,
    ccWrite := if flags then h.ccw else none, act := h.active, grow := growOf sh d.toNat h.words }

/-- The lanes that are active, ascending. -/
def Here.lanes (h : Here) : List Nat := h.active.lanes h.team.e0

/-- RFAL (R290): fixed-latency when A is U. -/
def execRfal (y : Bool) (d a : BitVec 8) (s : State) : Host.Outcome State Fault Refusal :=
  issue s fun h =>
    let v := h.tplace (h.tpat a (h.active.lowest h.team.e0))
    if h.shapeN a.toNat h.words = .u then
      h.run y (h.laneUses (wordOf (.rfal y d a)) false false false d [a] h.oneShape) fun h =>
        (h.write d.toNat h.words h.active h.oneShape fun _ => v, none)
    else
      h.runLong y (h.laneUses (wordOf (.rfal y d a)) false false true d [a] h.oneShape) fun o =>
        ({ o with data := h.lanes.map fun t => (t, v) }, [])

/-- BALLOT (R290): lane t receives its word of the ballot. -/
def execBallot (y : Bool) (d a : BitVec 8) (s : State) : Host.Outcome State Fault Refusal :=
  issue s fun h =>
    let ballot := Mask.ofPred h.team.e0 fun t => h.active.has t && h.tpat a t != 0
    h.runLong y (h.laneUses (wordOf (.ballot y d a)) false false true d [a] h.laneShape) fun o =>
      ({ o with data := h.lanes.map fun t => (t, (ballot.word (t / 32)).toNat) }, [])

/-- VOTE (R290): all, any, uni. -/
def execVote (y : Bool) (d a k : BitVec 8) (s : State) : Host.Outcome State Fault Refusal :=
  issue s fun h =>
    let ps := h.lanes.map (h.tpat a)
    let yes := match k.toNat with
      | 0 => ps.all (· != 0)
      | 1 => ps.any (· != 0)
      | _ => ps.all (· == ps.headD 0)
    h.runLong y (h.laneUses (wordOf (.vote y d a k)) (decide (2 < k.toNat)) false true d [a] h.oneShape) fun o =>
      ({ o with data := h.lanes.map fun t => (t, if yes then 1 else 0) }, [])

/-! ### SHFL and XSHUF -/

/-- The source lane of SHFL in lane t: its own where B is at or above E0 (R293). -/
def Here.srcLane (h : Here) (b : BitVec 8) (t : Nat) : Nat :=
  let s := (h.read b.toNat t).toNat
  if h.team.e0 ≤ s then t else s

/-- The poisoned words that lanes read through a source lane of A and their own lane of B (R294). -/
def Here.shflPoison (h : Here) (a b : BitVec 8) : Option (Nat × Mask) :=
  let wa := fieldWords (a.toNat, h.words)
  let wb := fieldWords (b.toNat, h.words)
  if (wa ++ wb).all fun r => (h.team.reg r).poison = 0#1024 then none
  else
    let hitB (r t : Nat) : Bool := (h.team.reg r).poisoned t
    let hitA (r t : Nat) : Bool := (h.team.reg r).poisoned (h.srcLane b t)
    let m := Mask.ofPred h.team.e0 fun t => h.active.has t && ((wa.any fun r => hitA r t) || wb.any fun r => hitB r t)
    if m = 0#1024 then none
    else
      let first := m.lowest h.team.e0
      some (((wa.find? fun r => hitA r first).or (wb.find? fun r => hitB r first)).getD 0, m)

/-- SHFL (R293, R294): U under a full mask when A is U, whatever B is. The words of all lanes are read in the one step of its issue
(log 143). -/
def execShfl (y : Bool) (d a b : BitVec 8) (s : State) : Host.Outcome State Fault Refusal :=
  issue s fun h =>
    let sh := h.shapeOf .other h.active [h.shapeN a.toNat h.words]
    h.runLong y { h.laneUses (wordOf (.shfl y d a b)) false false true d [a, b] sh with poison := some (h.shflPoison a b) } fun o =>
      ({ o with data := h.lanes.map fun t => (t, h.tplace (h.tpat a (h.srcLane b t))) }, [])

/-- A team has no partner, or the partner has exited (R296). -/
def State.partnerGone (s : State) (g : Group) (t : Team) : Bool :=
  match s.partner g with
  | none => true
  | some q => decide (partnerTeam q t = .gone)

/-- XSHUF: without a partner, trap or go on at once; else wait for outstanding operations, and arrive (R295, R296). -/
def execXshuf (y : Bool) (d a b : BitVec 8) (s : State) : Host.Outcome State Fault Refusal :=
  issueS s fun h =>
    let w := wordOf (.xshuf y d a b)
    let sh := h.laneShape
    let u := { h.laneUses w false false true d [a, b] sh with
      poison := some (h.poisonRead { word := w, reads := [(b.toNat, h.words)], act := h.active }) }
    match h.checkQuiet u with
    | some t => s.put (h.raise h.active t)
    | none =>
      if s.partnerGone h.group h.team then
        let h := h.endIdem
        s.put (if h.active = 0#1024 then { h with frag := h.frag.finish y } else h.raise h.active { cause := cNOPARTNER, dest := u.destWords })
      else if !h.quiet then s.put h.drain
      else
        let h := h.endIdem
        if h.mixed (.xshuf 0) then s.put (h.raise h.frag.acting { cause := cILLOP, detail := w, dest := u.destWords })
        else
          let all := List.range h.team.e0
          let o := h.newOut u (.xshuf (all.map fun t => h.readN a.toNat h.words t) (all.map fun t => (h.read b.toNat t).toNat))
          let o : Out := { o with data := h.lanes.map fun t => (t, 0), willG := if h.active = 0#1024 then [] else o.willG }
          let h := { h.start o [] with fresh := if h.readsFree u then h.fresh + 4096 else h.fresh }
          let h := Here.handOver { h with frag := { h.frag with park := .xshuf o.id } }
          (s.put { h with frag := h.frag.finish y }).settlePair h.group.gid

/-! ### Reductions and scans (R291, R292) -/

/-- The exact sum of values, whatever their order: NaN with any NaN or infinities of both signs. Infinities of both signs raise IV only
where no quiet NaN is there (log 145). -/
def sumNums (rm : Nat) (xs : List Num) : Num × FFlags :=
  if xs.any (·.isNan) then (.nan false, snanFlag xs)
  else
    match xs with
    | [] => (.fin false 0 0, 0#5)
    | x :: rest => rest.foldl (fun acc z => if acc.1.isNan then acc else addNum rm acc.1 z) (x, 0#5)

/-- The reduction of integer patterns (R291, R292, R288). -/
def redInt (T : IntFmt) (sb : Bool) (k : Nat) (ps : List Nat) : IntRes :=
  let all := 2 ^ T.n - 1
  match k, ps with
  | 0, _ =>
    let x := ps.foldl (fun (s : Int) p => s + T.val p) 0
    { pat := T.narrow sb x, c := false, v := T.outside x }
  | 1, [] => bitRes (if T.signed then 2 ^ (T.n - 1) - 1 else all)
  | 1, p :: rest => rest.foldl (fun a b => minRes T a.pat b) (bitRes p)
  | 2, [] => bitRes (if T.signed then 2 ^ (T.n - 1) else 0)
  | 2, p :: rest => rest.foldl (fun a b => maxRes T a.pat b) (bitRes p)
  | 3, _ => bitRes (ps.foldl (· &&& ·) all)
  | 4, _ => bitRes (ps.foldl (· ||| ·) 0)
  | _, _ => bitRes (ps.foldl (· ^^^ ·) 0)

/-- The reduction of float patterns with the flags it raises. -/
def Here.redFloat (h : Here) (k : Nat) (ps : List Nat) : Nat × FFlags :=
  let f := h.format
  let nums := ps.map fun p => flushInput f h.ftz (decodeNum f p)
  match k with
  | 0 => if ps.isEmpty then (0, 0#5) else h.roundF (sumNums h.rnd nums)
  | 1 | 2 =>
    match ps.filter fun p => !(decodeNum f p).isNan with
    | [] => (if ps.isEmpty then f.infCode (k == 2) else f.nanCode, snanFlag nums)
    | p :: rest => (rest.foldl (fun a b => (minMax f h.ftz (k == 1) a b).1) (flushPat f h.ftz p), snanFlag nums)
  | 3 => (ps.foldl (· &&& ·) (2 ^ f.bits - 1), 0#5)
  | 4 => (ps.foldl (· ||| ·) 0, 0#5)
  | _ => (ps.foldl (· ^^^ ·) 0, 0#5)

/-- The shared course of REDU and SCAN: `of_ t` lists the patterns that lane t combines. -/
def Here.collective (h : Here) (y : Bool) (w : Word) (d a : BitVec 8) (k : Nat) (sh : Shape) (of_ : Nat → List Nat) : Here :=
  let u := h.laneUses w (decide (5 < k)) true true d [a] sh
  if h.format.isInt then
    let T := h.intFmt
    h.runLong y u fun o =>
      ({ o with data := h.lanes.map (fun t => (t, T.place (redInt T h.sat k (of_ t)).pat)),
                ccData := h.lanes.map fun t => (t, (redInt T h.sat k (of_ t)).flags T) }, [])
  else
    let f (t : Nat) : Nat × FFlags := h.redFloat k (of_ t)
    let bad := Mask.ofPred h.team.e0 fun t => h.active.has t && (enabledFlags h.team.fpctl (f t).2 != 0#5)
    let raised := allFlags h.lanes fun t => (f t).2
    let enabled := allFlags (bad.lanes h.team.e0) fun t => enabledFlags h.team.fpctl (f t).2
    let good := h.lanes.filter fun t => !bad.has t
    let flags (p : Nat) : Flags :=
      if k ≤ 2 then floatFlags h.format p
      else { n := h.format.signBit p, z := decide (p = 0), c := false, v := false }
    h.runLong y u fun o =>
      ({ o with data := good.map (fun t => (t, (f t).1)), ccData := good.map (fun t => (t, flags (f t).1)),
                fp := BitVec.ofNat 32 (raised.toNat * 16) },
       if bad = 0#1024 then []
       else [{ cause := cFPEXC, lanes := some bad, detail := BitVec.ofNat 32 (enabled.toNat * 16), dest := o.dst }])

/-- REDU (R291). -/
def execRedu (y : Bool) (d a : BitVec 8) (k : BitVec 4) (s : State) : Host.Outcome State Fault Refusal :=
  issue s fun h =>
    let ps := h.lanes.map (h.tpat a)
    h.collective y (wordOf (.redu y d a k)) d a k.toNat h.oneShape fun _ => ps

/-- SCAN (R291, R292). -/
def execScan (y : Bool) (d a : BitVec 8) (e : BitVec 1) (k : BitVec 4) (s : State) : Host.Outcome State Fault Refusal :=
  issue s fun h =>
    h.collective y (wordOf (.scan y d a e k)) d a k.toNat h.laneShape fun t =>
      (h.lanes.filter fun j => if e = 1#1 then decide (j < t) else decide (j ≤ t)).map (h.tpat a)

/-! ### SHAPE and WIDF (R297, R298) -/

/-- SHAPE. -/
def execShape (y : Bool) (d a : BitVec 8) (s : State) : Host.Outcome State Fault Refusal :=
  issue s fun h =>
    h.plain y { word := wordOf (.shape y d a), writes := [(d.toNat, 1)], reads := [(a.toNat, 1)], act := h.active,
                grow := growOf h.oneShape d.toNat 1, unlocked := [a.toNat], poison := some none } fun h =>
      h.write d.toNat 1 h.active h.oneShape fun _ => (h.shapeWord a.toNat).code

/-- Field f of the work identifier of lane t (R27, R298). -/
def Here.workField (h : Here) (f t : Nat) : Nat :=
  match f with
  | 0 => if h.team.isCore then 0 else t
  | 1 => if h.team.isCore then 0 else h.team.f1
  | 2 => h.group.f2
  | 3 => h.group.f3
  | 4 => h.group.f4
  | _ => h.group.f5

/-- The shape of WIDF: F0 is the operation LANE. -/
def Here.widfShape (h : Here) (f : Nat) (wide : Bool) : Shape :=
  if h.team.isCore then .u
  else if h.active ≠ h.team.live then .g
  else if f = 0 then (if !wide && decide (h.type ≤ 1) && !h.sat then .a else .g)
  else .u

/-- WIDF, one word. -/
def execWidf (y : Bool) (d : BitVec 8) (f : BitVec 3) (s : State) : Host.Outcome State Fault Refusal :=
  issue s fun h =>
    let sh := h.widfShape f.toNat false
    h.plain y { word := wordOf (.widf y d f), illop := decide (5 < f.toNat), writes := [(d.toNat, 1)], act := h.active,
                grow := growOf sh d.toNat 1 } fun h =>
      h.write d.toNat 1 h.active sh fun t => h.workField f.toNat t % 2 ^ 32

/-- WIDF, the 64-bit field in a pair. -/
def execWidf64 (y : Bool) (d : BitVec 8) (f : BitVec 3) (s : State) : Host.Outcome State Fault Refusal :=
  issue s fun h =>
    let sh := h.widfShape f.toNat true
    h.plain y { word := wordOf (.widf64 y d f), illop := decide (5 < f.toNat), writes := [(d.toNat, 2)], act := h.active,
                grow := growOf sh d.toNat 2 } fun h =>
      h.write d.toNat 2 h.active sh fun t => h.workField f.toNat t

/-! ### Computed register numbers (R299, R300) -/

/-- The lanes whose computed register number is known: none while the index register is pending, and not those whose index
word is poisoned, since these are themselves the trap of a later check (log 88). -/
def Here.indexed (h : Here) (r : BitVec 8) : Mask :=
  if (fieldWords (r.toNat, 1)).any h.team.pending.contains || !fieldOk r.toNat 1 false false then 0#1024
  else Mask.ofPred h.team.e0 fun t => h.active.has t && !((fieldWords (r.toNat, 1)).any fun q => (h.team.reg q).poisoned t)

/-- The checks of the computed registers `n` of the lanes of `m`, in their places among the others (R88, R299, R300): bound;
pending, or locked for a write; and, for a read, poisoned, with the poison of the index itself. -/
def Here.indexUses (h : Here) (u : Uses) (r : BitVec 8) (n : Nat → Nat) (write : Bool) : Uses :=
  let m := h.indexed r
  let excess := Mask.ofPred h.team.e0 fun t => m.has t && decide (h.team.vCount ≤ n t)
  let pend := h.team.pending
  let lock := if write then h.team.locked else []
  let busy := Mask.ofPred h.team.e0 fun t => m.has t && (pend.contains (n t) || lock.contains (n t))
  let trap (cause : Nat) (x : Mask) : Option Trap :=
    if x = 0#1024 then none
    else some { cause := cause, lanes := some x, detail := BitVec.ofNat 32 (n (x.lowest h.team.e0)), deferred := h.active &&& ~~~x }
  let own (t : Nat) : Bool := (fieldWords (r.toNat, 1)).any fun q => (h.team.reg q).poisoned t
  let bad := Mask.ofPred h.team.e0 fun t => h.active.has t && (own t || (h.team.reg (n t)).poisoned t)
  { u with
    bound := trap cREGBOUND excess, busy := trap cHAZARD busy
    poison := if write then none
      else some (if bad = 0#1024 then none
        else some (if own (bad.lowest h.team.e0) then r.toNat else n (bad.lowest h.team.e0), bad)) }

/-- RDIDX (R299). -/
def execRdidx (y : Bool) (d a : BitVec 8) (s : State) : Host.Outcome State Fault Refusal :=
  issue s fun h =>
    let n (t : Nat) : Nat := (h.read a.toNat t).toNat
    let sh : Shape := if h.shapeWord a.toNat = .u then h.shapeOf .mov h.active [h.shapeWord (n (h.active.lowest h.team.e0))] else .g
    h.plain y (h.indexUses { word := wordOf (.rdidx y d a), writes := [(d.toNat, 1)], reads := [(a.toNat, 1)], act := h.active,
                             grow := growOf sh d.toNat 1 } a n false) fun h =>
      h.write d.toNat 1 h.active sh fun t => ((h.team.reg (n t)).val.lane t).toNat

/-- WRIDX (R300). -/
def execWridx (y : Bool) (d a : BitVec 8) (s : State) : Host.Outcome State Fault Refusal :=
  issue s fun h =>
    let n (t : Nat) : Nat := (h.read d.toNat t).toNat
    let targets := (h.lanes.map n).eraseDups
    let lanesOf (r : Nat) : Mask :=
      if h.shapeWord d.toNat = .u then h.active else Mask.ofPred h.team.e0 fun t => h.active.has t && n t == r
    let shOf (r : Nat) : Shape := h.shapeOf .mov (lanesOf r) [h.shapeWord a.toNat]
    h.plain y (h.indexUses { word := wordOf (.wridx y d a), reads := [(d.toNat, 1), (a.toNat, 1)], act := h.active,
                             grow := targets.filter fun r => shOf r == .g } d n true) fun h' =>
      { h' with team := targets.foldl (fun tm r =>
          tm.setReg r ((tm.reg r).write tm.e0 (lanesOf r) (shOf r) fun t => h.read a.toNat t)) h'.team }

end Sys2Proof.Machine
end

