-- ==== Sys2Proof/Machine/Packets.lean ====
section
/-!
DEFINITION. Packets: header and bodies, tensor layouts and handles, element addresses, the exact conversions, and the start
of a packet with its ring slots, refusals and the side list (07 R162 to R184).
-/
namespace Sys2Proof.Machine

/-! ### Packet fields (R162, R170, R171, R175, R177 to R179) -/

def Packet.type (p : Packet) : Nat := bitsOf p.bits 0 4
def Packet.flow (p : Packet) : Nat := bitsOf p.bits 8 6
def Packet.ord (p : Packet) : Bool := bitOf p.bits 14
def Packet.rsel (p : Packet) : Bool := bitOf p.bits 15
def Packet.tag (p : Packet) : Nat := bitsOf p.bits 16 16
def Packet.ringField (p : Packet) : Nat := bitsOf p.bits 64 48
def Packet.ha (p : Packet) : Nat := bitsOf p.bits 128 32
def Packet.hb (p : Packet) : Nat := bitsOf p.bits 160 32

/-- DFMT of COPY and MCAST. -/
def Packet.dfmt (p : Packet) : Nat := bitsOf p.bits 192 8
/-- IND: its place depends on TYPE. -/
def Packet.ind (p : Packet) : Bool := if p.type = 2 ∨ p.type = 3 then bitOf p.bits 194 else bitOf p.bits 200
def Packet.shadow (p : Packet) : Bool := bitOf p.bits 201
def Packet.dwin (p : Packet) : Bool := bitOf p.bits 202
/-- DSLOT of COPY, FILLA and FILLB. -/
def Packet.dslot (p : Packet) : Bool :=
  if p.type = 2 ∨ p.type = 3 then bitOf p.bits 195 else decide (p.type = 1) && bitOf p.bits 203
def Packet.dwnum (p : Packet) : Nat := if p.type = 4 then bitsOf p.bits 208 4 else bitsOf p.bits 204 4
def Packet.daddr (p : Packet) : Nat := if p.type = 4 then bitsOf p.bits 256 32 else bitsOf p.bits 208 48
def Packet.cls (p : Packet) : Nat := bitsOf p.bits 192 2
def Packet.npanel (p : Packet) : Nat := bitsOf p.bits 196 5
def Packet.rows (p : Packet) : Nat := bitsOf p.bits 201 6
def Packet.kcnt (p : Packet) : Nat := bitsOf p.bits 207 5
def Packet.org (p : Packet) (k : Nat) : Nat := bitsOf p.bits (256 + 16 * k) 16
def Packet.rwnum (p : Packet) : Nat := bitsOf p.bits 212 4
def Packet.gbase (p : Packet) : Nat := bitsOf p.bits 288 16
def Packet.gmask (p : Packet) : Nat := bitsOf p.bits 304 32

/-- K of a panel class (R171, R190). -/
def classK (cls : Nat) : Nat := match cls with | 0 => 16 | 1 => 8 | 2 => 4 | _ => 0

/-- A server of a kind serves a packet type (R163). -/
def serves (kind : ServerKind) (type : Nat) : Bool :=
  match kind with
  | .engine => type != 5
  | .launchUnit => type == 5 || type == 7
  | .peerPort => type == 1 || type == 7

/-- An MBZ bit of the packet is set. -/
def Packet.mbzSet (p : Packet) : Bool :=
  bitsOf p.bits 112 16 != 0 || bitsOf p.bits 32 32 != 0 || bitsOf p.bits 4 3 != 0 ||
  (p.rsel && bitsOf p.bits 68 44 != 0) ||
  (match p.type with
    | 1 => bitsOf p.bits 256 256 != 0
    | 2 | 3 => bitsOf p.bits 336 176 != 0 || bitsOf p.bits 212 44 != 0
    | 4 => bitsOf p.bits 336 176 != 0 || bitsOf p.bits 216 40 != 0 || bitsOf p.bits 201 7 != 0
    | 5 => bitsOf p.bits 176 336 != 0
    | 6 => bitsOf p.bits 336 176 != 0
    | 7 => bitsOf p.bits 176 16 != 0 || bitsOf p.bits 256 256 != 0
    | _ => false)

/-- A malformed packet (R163). -/
def Packet.malformed (kind : ServerKind) (p : Packet) : Bool :=
  p.type == 0 || decide (7 < p.type) || p.mbzSet || !serves kind p.type

/-! ### Layouts and handles (R164 to R166) -/

def layBase (v : Nat) : Nat := bitsOf v 0 48
def layFmt (v : Nat) : Nat := bitsOf v 48 8
def layRank (v : Nat) : Nat := bitsOf v 56 3
def laySwz (v : Nat) : Nat := bitsOf v 59 3
def layExt (v k : Nat) : Nat := bitsOf v (64 + 16 * k) 16
def layStr (v k : Nat) : Nat := bitsOf v (144 + 22 * k) 22
/-- Size of the layout's elements. -/
def laySize (v : Nat) : Nat := ((codeFormat (layFmt v)).map Format.bytes).getD 1

/-- The sum of coordinate × stride over the dimensions below RANK. -/
def layOffset (v : Nat) (coords : List Nat) : Nat :=
  ((List.range (layRank v)).map fun k => coords.getD k 0 * layStr v k).foldl (· + ·) 0

/-- The address of an element (R164). -/
def layAddr (v : Nat) (coords : List Nat) : Nat :=
  layBase v + swz (laySwz v) (laySize v * layOffset v coords) (log2 (laySize v))

/-- A coordinate lies in the tensor; a dimension at or above RANK has extent 1 (log 137). -/
def layInside (v : Nat) (coords : List Nat) : Bool :=
  (List.range 5).all fun k => decide (coords.getD k 0 < if k < layRank v then layExt v k else 1)

/-- SEAL's judgement of a record: the reason of a refusal (R165, R320). -/
def layRefusal (v : Nat) : Option Nat :=
  let r := layRank v
  let z := laySize v
  let omax := z * ((List.range r).map fun k => (layExt v k - 1) * layStr v k).foldl (· + ·) 0
  let nmax := omax / z
  let reach := match laySwz v with
    | 1 => omax - omax % 128 + 128 - z
    | 2 => z * (nmax - nmax % 2 ^ 32 + 2 ^ 32 - 1)
    | 3 => z * (nmax - nmax % 1024 + 1023)
    | _ => omax
  if bitsOf v 254 2 != 0 || bitsOf v 62 2 != 0 || decide (3 < laySwz v) || r == 0 || decide (5 < r)
      || (codeFormat (layFmt v)).isNone then some 1
  else if (List.range r).any fun k => layExt v k == 0 then some 2
  else if (List.range 5).any fun k => decide (r ≤ k) && (layExt v k != 0 || layStr v k != 0) then some 3
  else if 2 ^ 48 ≤ layBase v + reach then some 4
  else if layBase v % z ≠ 0 then some 5
  else none

/-- The seal entry of a live handle. -/
def VDev.seal? (v : VDev) (h : Nat) : Option Seal :=
  if bitsOf h 30 2 ≠ 0 then none
  else v.seals.find? fun e => e.live && e.index == h % 1024 && e.gen == bitsOf h 10 20

/-- Seal a record: the table and the handle, or the reason (R165, R320). A record takes the lowest free index (log 123). -/
def VDev.sealRecord (v : VDev) (bits : Nat) : VDev × Except Nat Nat :=
  match layRefusal bits with
  | some r => (v, .error r)
  | none =>
    match (List.range 1024).find? fun i => !(v.seals.any fun e => e.index == i && e.live) with
    | none => (v, .error 6)
    | some i =>
      let gen := ((v.seals.find? fun e => e.index == i).map (·.gen)).getD 1
      let e : Seal := { index := i, gen := gen, live := true, bits := bits }
      ({ v with seals := v.seals.filter (fun e => e.index != i) ++ [e] }, .ok (i + gen * 1024))

/-- Release a handle; a stale, free or zero one is without effect (R321). -/
def VDev.sealRelease (v : VDev) (h : Nat) : VDev :=
  match v.seal? h with
  | none => v
  | some _ => { v with seals := v.seals.map fun e =>
      if e.index = h % 1024 then { e with live := false, gen := if e.gen = 2 ^ 20 - 1 then 1 else e.gen + 1 } else e }

/-! ### Conversions (R168) -/

/-- Narrow source formats of R171 and widening floats of R168. -/
def isNarrowCode (c : Nat) : Bool :=
  c == 10 || c == 11 || c == 6 || c == 0x80 || (match codeFormat c with | some (.b8 _ _ _) => true | _ => false)

/-- A permitted pair. -/
def pairOk (src dst : Nat) : Bool :=
  (codeFormat dst).isSome &&
  (src == dst || ((dst == 8 || dst == 9) && isNarrowCode src) || (src == 8 && dst == 9)
    || (dst == 0 && (src == 4 || src == 5 || src == 6 || src == 7)) || (src == 0 && dst == 2) || (src == 1 && dst == 3))

/-- The element in the target format, and FLAGS.INV for the reserved sint8s code. -/
def convElem (src dst pat : Nat) : Nat × Nat :=
  if src = dst then (pat, 0)
  else
    match codeFormat src, codeFormat dst with
    | some a, some b =>
      if src = 0x80 ∧ pat % 256 = 0x80 then ((if b.isInt then 0 else b.nanCode), 1)
      else ((round (decodeNum a pat) b 1 false false).1, 0)
    | _, _ => (pat, 0)

def flINV : Nat := 1
def flCOORD : Nat := 2
def flPOISON : Nat := 4
def flSKIP : Nat := 8
def flGONE : Nat := 16

/-! ### Rings and receivers -/

/-- The ring that a packet names: none when it names none; `some none` when the window's group is not there. -/
def State.packetRing (s : State) (q : QueueId) (p : Packet) : Option (Option RingSlot) :=
  if p.rsel then
    some ((p.group.bind s.group?).bind fun g => (g.window? (p.ringField % 16)).map fun _ =>
      { vd := q.vd, window := some (g.gid, p.ringField % 16), addr := 0, slot := 0 })
  else if p.ringField = 0 then none
  else some (some { vd := q.vd, window := none, addr := p.ringField, slot := 0 })

/-- The receivers of an MCAST that exist, and whether one is gone (R175); from a queue that no group issued, all that it names are (log
139). -/
def State.mcastGroups (s : State) (p : Packet) : List Group × Bool :=
  match p.group.bind s.group? with
  | none => ([], p.gmask != 0)
  | some g =>
    let named := ((List.range 32).filter fun j => bitOf p.gmask j).map (p.gbase + ·)
    let found := named.filterMap fun f2 =>
      s.groups.find? fun x => x.launch == g.launch && x.f2 == f2 && x.f3 == g.f3 && x.f4 == g.f4 && x.f5 == g.f5
    (found, decide (found.length < named.length))

def State.mcastRings (s : State) (q : QueueId) (p : Packet) : List RingSlot :=
  (s.mcastGroups p).1.map fun g => { vd := q.vd, window := some (g.gid, p.rwnum), addr := 0, slot := 0 }

/-- Two slots of one ring. -/
def RingSlot.same (a b : RingSlot) : Bool := decide (a.window = b.window) && (a.window.isSome || (a.vd == b.vd && a.addr == b.addr))

/-- Every ring that a packet needs. -/
def State.ringsOf (s : State) (q : QueueId) (p : Packet) : List RingSlot :=
  ((s.packetRing q p).bind id).toList ++ (if p.type = 4 then s.mcastRings q p else [])

/-! ### Sizes of what a packet writes -/

/-- The tensor that a packet reads: HB with IND, else HA. -/
def Packet.data (p : Packet) : Nat := if p.ind then p.layoutB else p.layoutA
/-- Elements of one pass over the data tensor: without the gathered dimension under IND (R170). -/
def Packet.inner (p : Packet) : Nat :=
  ((List.range (layRank p.data - (if p.ind then 1 else 0))).map fun k => layExt p.data k).foldl (· * ·) 1
/-- Elements of a COPY or MCAST. -/
def Packet.elements (p : Packet) : Nat := p.inner * (if p.ind then layExt p.layoutA 0 else 1)
def Packet.dsize (p : Packet) : Nat := ((codeFormat p.dfmt).map Format.bytes).getD 1
/-- Size of a panel element in a ring slot (R174). -/
def Packet.panelSize (p : Packet) : Nat := if p.cls = 2 then 8 else 4

/-- The handles of a packet with their sealed copies, or the refusal (R166, R167). -/
def VDev.handles (v : VDev) (p : Packet) : Except Nat (Nat × Nat) :=
  match v.seal? p.ha, (if p.ind then v.seal? p.hb else some { index := 0, gen := 0, live := true, bits := 0 }) with
  | some a, some b =>
    if (!p.ind && p.hb != 0) || (p.ind && (decide (1 < layFmt a.bits) || layRank a.bits != 1)) then .error stBADFMT
    else .ok (a.bits, b.bits)
  | _, _ => .error stBADHANDLE

/-- A context of the group whose matrix unit takes FIFO entries: started and not exited (R173). -/
def Group.fifoLive (g : Group) : Bool := match g.core with | some c => !c.exited | none => false

/-- [0, n) bytes at an offset lie in a window. -/
def Window.holds (w : Window) (off n : Nat) : Bool := decide (off + n ≤ w.bytes)

/-- The first bytes of n bytes in each 64 KiB page, which is the smallest. -/
def pagesOf (a n : Nat) : List Nat :=
  (List.range ((a + max n 1 - 1) / 65536 + 1 - a / 65536)).map fun k => max a (65536 * (a / 65536 + k))

/-- Whether n bytes lie in one dual-backed range (R170, R387): a page that translates outside it decides, and otherwise the
first page that does not translate is met before any write. -/
def State.inDual (s : State) (vd a n : Nat) : Except (Bad × Nat) Bool :=
  let ps := (pagesOf a n).map fun va => (va, s.place vd va .write true)
  let duals := (ps.filterMap fun x => x.2.toOption.map fun p => p.dual.map (·.1)).eraseDups
  if decide (1 < duals.length) || duals.contains none then .ok false
  else
    match ps.findSome? fun x => match x.2 with | .error b => some (b, x.1) | .ok _ => none with
    | some b => .error b
    | none => .ok true

/-- The code with which a packet is refused before any access or write, or none; sealed copies are already in it. That a
SHADOW destination is dual-backed is looked at in the packet's first step, for which its translation may have to wait.
`ring` is its ring as read. A COPY through a peer port with SHADOW is refused, as one with a window is (log 146). An MCAST whose DOFF is not a multiple of the format's size is refused with BADDST, as a COPY is (log 124). -/
def State.refusal (s : State) (q : QueueId) (p : Packet) (ring : Option Ring) : Option Nat :=
  let group := p.group.bind s.group?
  match p.type with
  | 1 =>
    let n := p.elements * p.dsize
    if !pairOk (layFmt p.data) p.dfmt then some stBADFMT
    else if q.kind = .peerPort then
      if p.dwin || p.dslot || p.shadow || !((s.vd q.vd).paired.any fun e => e.1 == q.unit) || p.daddr % p.dsize != 0 then some stBADDST else none
    else if p.dslot then
      if p.dwin then some stBADDST
      else match ring with
        | some r =>
          if 2 ^ r.log2 < n ∨ (p.shadow && p.rsel) then some stBADDST else none
        | none => some stBADDST
    else if p.daddr % p.dsize ≠ 0 then some stBADDST
    else if p.dwin then
      match group.bind fun g => g.window? p.dwnum with
      | some w => if w.holds p.daddr n && !p.shadow then none else some stBADDST
      | none => some stBADDST
    else none
  | 2 | 3 =>
    if !(isNarrowCode (layFmt p.data) || (decide (1 ≤ p.cls) && layFmt p.data == 8) || (p.cls == 2 && layFmt p.data == 9)) then some stBADFMT
    else if p.dslot then
      match ring with
      | none => some stBADDST
      | some r => if 2 ^ r.log2 < p.npanel * p.rows * p.kcnt * p.panelSize then some stBADSIZE else none
    else if (group.map Group.fifoLive).getD false then none else some stBADDST
  | 4 =>
    let n := p.elements * p.dsize
    let gs := (s.mcastGroups p).1
    if !pairOk (layFmt p.data) p.dfmt then some stBADFMT
    else if p.daddr % p.dsize ≠ 0 then some stBADDST
    else if gs.any fun g => match g.window? p.dwnum with | some w => !w.holds p.daddr n | none => true then some stBADDST
    else
      let rings := (s.mcastRings q p).map fun r => (r, s.ring r)
      if rings.any fun x => match x.2 with | .ok g => !g.ok (s.ringExtent x.1) | .error _ => true then some stBADDST
      else if rings.any fun x => match x.2 with | .ok g => decide ((s.vd q.vd).ceiling < g.scope) | .error _ => false then some stSCOPE
      else none
  | 5 => if bitsOf p.bits 128 48 % 128 ≠ 0 then some stBADPKT else none
  | 6 =>
    let src := bitsOf p.bits 128 48
    let len := bitsOf p.bits 176 48
    let dst := bitsOf p.bits 224 48
    let dig := bitsOf p.bits 272 48
    if src % 65536 ≠ 0 ∨ dst % 65536 ≠ 0 ∨ len = 0 ∨ dig % 32 ≠ 0 then some stBADDST
    else
      match s.place q.vd dst .write with
      | .ok pl => if pl.space = .tier2 then none else some stBADDST
      | .error _ => none
  | _ => if bitsOf p.bits 128 48 % 8 ≠ 0 then some stBADDST else none

/-- The checks of a packet as it starts: malformed, fields out of range, handles, and the refusals. A launch's HDR,
MARK's MVA and CKPT's addresses are checked here too. -/
def State.judge (s : State) (q : QueueId) (p : Packet) (ring : Option Ring) : Packet :=
  let tensor := decide (1 ≤ p.type ∧ p.type ≤ 4)
  if p.malformed q.kind then { p with code := some stBADPKT }
  else if (p.type = 2 ∨ p.type = 3) ∧ !(decide (1 ≤ p.kcnt ∧ p.kcnt ≤ classK p.cls) && decide (1 ≤ p.rows ∧ p.rows ≤ 32)
      && decide (1 ≤ p.npanel ∧ p.npanel ≤ 16)) then { p with code := some stBADPKT }
  else
    match (if tensor then (s.vd q.vd).handles p else .ok (0, 0)) with
    | .error c => { p with code := some c }
    | .ok (a, b) =>
      let p := { p with layoutA := a, layoutB := b }
      { p with code := s.refusal q p ring, flags := if p.type = 4 ∧ (s.mcastGroups p).2 then flGONE else 0 }

/-! ### Starting a packet (R182, R184) -/

/-- What starting a packet comes to. -/
inductive Begun where
  /-- it is started, with its slots taken -/
  | go (s : State) (p : Packet)
  /-- its ring cannot be used: consumed without effect and counted (R180); with the access that failed, if one did, and whether it
  was a write -/
  | drop (bad : Option (Bad × Bool))
  /-- a ring has no free slot -/
  | full
  | miss (gpa : Nat) (table : Bool) (va : Nat) (wr : Bool)
  deriving DecidableEq, Repr

/-- Take a slot in each of some rings: none where one is full, and the access that failed with its address. -/
def State.takeAll (s : State) : List RingSlot → Except Failed (Option (State × List RingSlot))
  | [] => .ok (some (s, []))
  | r :: rs =>
    match s.takeSlot r with
    | .error b => .error b
    | .ok none => .ok none
    | .ok (some (s, r')) => (s.takeAll rs).map fun o => o.map fun x => (x.1, r' :: x.2)

/-- What the outcome of taking the slots of a packet's own ring, if it has one, and of its receivers' comes to. -/
def Packet.begun (p : Packet) (own : Bool) (x : Except Failed (Option (State × List RingSlot))) : Begun :=
  match x with
  | .ok (some (s, rs)) => .go s { p with ring := if own then rs.head? else none, receivers := if own then rs.tail else rs, started := true }
  | .ok none => .full
  | .error (.miss g t, va, wr) => .miss g t va wr
  | .error (b, _, wr) => .drop (some (b, wr))

/-- Start a packet: its ring is read and checked, the packet is judged, and its slots are taken. One whose RING is
not a multiple of 32 is dropped, as one whose ring is ill-formed is (log 125). -/
def State.begin (s : State) (q : QueueId) (p : Packet) : Begun :=
  match s.packetRing q p with
  | none =>
    let p' := s.judge q p none
    p'.begun false (s.takeAll (if p.type = 4 ∧ p'.code = none then s.mcastRings q p else []))
  | some none => .drop none
  | some (some r) =>
    match s.ring r with
    | .error (.miss g t) => .miss g t r.addr false
    | .error b => .drop (some (b, false))
    | .ok g =>
      if !s.ringUsable r g || r.addr % 32 != 0 then .drop none
      else
        let p' := s.judge q p (some g)
        let rs := if p.type = 4 ∧ p'.code = none then s.mcastRings q p else []
        p'.begun true (s.takeAll (r :: rs))

/-- Log the access that kept a packet from starting, if it was dropped for its world. -/
def State.logDropped (s : State) (q : QueueId) (bad : Option (Bad × Bool)) : State :=
  match bad with | some (b, wr) => s.logBad q wr b | none => s

/-- A server's access misses the second stage: the queue waits with QSTATE 4, or stays halted (R182, R392). -/
def State.queueMiss (s : State) (q : QueueId) (gpa : Nat) (table : Bool) (va : Nat) (write : Bool) (what : MissFor) : State :=
  match s.queue? q with
  | none => s
  | some x =>
    let s := s.pageMiss q.vd (serverDie q) 0xFFFF va gpa (if table then 1 else 3) write [.queue q]
    let s := s.setQueue { x with miss := some (serverDie q, gpa / unit2M), missFor := what }
    if x.halted then s else s.setQstate q 4

/-- The packet of a queue that runs: the oldest woken one beside the head, or the head; true for the former. -/
def State.current (s : State) (q : QueueId) : Option (Packet × Bool) :=
  match s.side.find? fun e => decide (e.2.1 = q) && e.2.2.started with
  | some e => some (e.2.2, true)
  | none => ((s.queue? q).bind (·.head)).map fun p => (p, false)

/-- Replace the running packet of a queue, or remove it. -/
def State.putCurrent (s : State) (q : QueueId) (side : Bool) (p : Option Packet) : State :=
  if side then
    let i := (s.side.findIdx? fun e => decide (e.2.1 = q) && e.2.2.started).getD s.side.length
    match p with
    | some p => { s with side := s.side.mapIdx fun k e => if k = i then (e.1, q, p) else e }
    | none => { s with side := s.side.eraseIdx i }
  else
    match s.queue? q with
    | some x => s.setQueue { x with head := p }
    | none => s

/-- Packets parked on the side list of a cluster's engine. -/
def State.parkedOn (s : State) (cluster : Nat) : List (Nat × QueueId × Packet) :=
  s.side.filter fun e => e.1 == cluster && !e.2.2.started

/-- Two lists of rings share one. -/
def shareRing (a b : List RingSlot) : Bool := a.any fun r => b.any r.same

/-- Wake the parked packets that need one of some rings: each looks at its rings again when its turn comes (R184). -/
def State.wakeRings (s : State) (rs : List RingSlot) : State :=
  { s with side := s.side.map fun e =>
      if !e.2.2.started && shareRing (s.ringsOf e.2.1 e.2.2) rs then (e.1, e.2.1, { e.2.2 with woken := true }) else e }

/-- RELSLOT wakes the packets parked for its ring (R184, R318). -/
def State.wakeSide (s : State) (r : RingSlot) : State := s.wakeRings [r]

/-- A packet parked on the side list is replaced, or leaves it. -/
def State.putSide (s : State) (e : Nat × QueueId × Packet) (p : Option Packet) : State :=
  match p with
  | some p => { s with side := s.side.map fun y => if y = e then (e.1, e.2.1, p) else y }
  | none => { s with side := s.side.erase e }

/-- The first woken packet of a queue that no packet parked before it on its engine's list shares a ring with (R184). -/
def State.nextWoken (s : State) (q : QueueId) : Option (Nat × QueueId × Packet) :=
  s.side.find? fun e => decide (e.2.1 = q) && !e.2.2.started && e.2.2.woken &&
    ((s.parkedOn e.1).takeWhile fun y => decide (y ≠ e)).all fun y => !shareRing (s.ringsOf y.2.1 y.2.2) (s.ringsOf q e.2.2)

/-- A server's write of QSTATE takes the line of its descriptor, where it changes. -/
def State.qstateLines (s : State) (q : QueueId) (n : Nat) : List Nat :=
  if (s.queue? q).any fun x => x.qstate != n then [q.desc] else []

/-- The lines that starting a packet reaches. -/
def State.startLines (s : State) (q : QueueId) (p : Packet) : List Nat := (s.ringsOf q p).flatMap s.ringLines ++ [q.desc]

/-- Start a queue's woken packet: its ring is read again. One that finds a ring full waits for the next release; those parked behind one
that starts or is dropped are woken in turn, for any of its rings (R184; log 141). -/
def State.startSide (s : State) (q : QueueId) : State :=
  match s.queue? q, s.nextWoken q with
  | some x, some e =>
    if x.miss.isSome then s
    else
      let rings := s.ringsOf q e.2.2
      match s.begin q e.2.2 with
      | .full => s.putSide e (some { e.2.2 with woken := false })
      | .miss g t va wr => s.serve q (s.qstateLines q 4) fun s => s.queueMiss q g t va wr (.start e.2.2.slot)
      | _ => s.serve q (s.startLines q e.2.2) fun s =>
        match s.begin q e.2.2 with
        | .go s p => (s.putSide e (some { p with woken := false })).wakeRings rings
        | .drop bad => (((s.putSide e none).logDropped q bad).dropPacket q e.2.2).wakeRings rings
        | _ => s
  | _, _ => s

/-- Start the packet at a queue's head if it is not started: run, drop, park or wait (R182, R184). -/
def State.startHead (s : State) (q : QueueId) : State :=
  match s.queue? q with
  | none => s
  | some x =>
    match x.head with
    | none => s
    | some p =>
      if p.started || x.miss.isSome then s
      else
        let put (s : State) (h : Option Packet) : State :=
          match s.queue? q with | some x => s.setQueue { x with head := h } | none => s
        let behind := decide (q.kind = .engine) && (s.parkedOn (unitNo q)).any fun e => shareRing (s.ringsOf e.2.1 e.2.2) (s.ringsOf q p)
        match (if behind then .full else s.begin q p) with
        | .full =>
          if q.kind = .engine ∧ (s.parkedOn (unitNo q)).length < 16 then
            s.serve q (s.qstateLines q 0) fun s => ({ put s none with side := s.side ++ [(unitNo q, q, p)] }).setQstate q 0
          else s.serve q (s.qstateLines q 2) fun s => s.setQstate q 2
        | .miss g t va wr => s.serve q (s.qstateLines q 4) fun s => s.queueMiss q g t va wr (.start p.slot)
        | _ => s.serve q (s.startLines q p) fun s =>
          match s.begin q p with
          | .go s p => (put s (some p)).setQstate q 0
          | .drop bad => (((put s none).logDropped q bad).dropPacket q p).setQstate q 0
          | _ => s

end Sys2Proof.Machine
end

