-- ==== Sys2Proof/Machine/Requests.lean ====
section
/-!
DEFINITION. From elements to requests: buffer records and windows, the checks on addresses, lines and their translation,
and the requests that a memory instruction puts in flight (05 R118 to R126; 06 R144, R145, R154; 21 R388, R392).
-/
namespace Sys2Proof.Machine

/-! ### Buffer records and windows (R81, R118 to R122) -/

def recBase (r : BitVec 128) : Nat := bitsOf r.toNat 0 48
def recLog2 (r : BitVec 128) : Nat := bitsOf r.toNat 48 3
def recSwz (r : BitVec 128) : Nat := bitsOf r.toNat 51 3
def recCheck (r : BitVec 128) : Bool := r.getLsbD 54
def recRo (r : BitVec 128) : Bool := r.getLsbD 55
def recPub (r : BitVec 128) : Bool := r.getLsbD 56
def recOrd (r : BitVec 128) : Bool := r.getLsbD 57
def recFlow (r : BitVec 128) : Nat := bitsOf r.toNat 58 6
def recExtent (r : BitVec 128) : Nat := bitsOf r.toNat 64 32
def recStride (r : BitVec 128) : Nat := bitsOf r.toNat 96 32
/-- The check that LDRB and MKRB make (R119). -/
def recOk (r : BitVec 128) : Bool := decide (recLog2 r ≤ 4) && decide (recSwz r ≤ 3)

/-- What FM names: a buffer record, or a window. -/
structure Buf where
  window : Bool
  num : Nat
  base : Nat
  extent : Nat
  stride : Nat
  swiz : Nat
  log2 : Nat
  deriving DecidableEq, Repr

def Here.bufRecord (h : Here) (b : Nat) : BitVec 128 := (h.team.b[b]?).getD 0#128
def recordBuf (b : Nat) (r : BitVec 128) : Buf :=
  { window := false, num := b, base := recBase r, extent := recExtent r, stride := recStride r, swiz := recSwz r, log2 := recLog2 r }
def Here.recordBuf (h : Here) (b : Nat) : Buf := Machine.recordBuf b (h.bufRecord b)
def Window.buf (x : Window) : Buf :=
  { window := true, num := x.num, base := x.offset, extent := x.extent, stride := 2 ^ x.log2sz, swiz := 0, log2 := x.log2sz }
/-- An undeclared window has no elements here; naming it has trapped before (R81). -/
def Here.windowBuf (h : Here) (w : Nat) : Buf :=
  match h.group.window? w with
  | some x => x.buf
  | none => { window := true, num := w, base := 0, extent := 0, stride := 4, swiz := 0, log2 := 2 }

/-- The address of element e (R82, R121), or what BOUNDS reports: the index, or the exact address. -/
def Buf.addr (b : Buf) (e : Nat) : Except (Nat × Bool) Nat :=
  if b.extent ≤ e then .error (e, false)
  else
    let a := b.base + (if b.window then e * b.stride else swz b.swiz (e * b.stride) b.log2)
    if 2 ^ 48 ≤ a then .error (a % 2 ^ 64, true) else .ok a

/-- FLT7 of BOUNDS and ALIGN (R354). -/
def Buf.detail (b : Buf) (isAddr : Bool) : Word :=
  BitVec.ofNat 32 (b.num + (if b.window then 16 else 0) + (if isAddr then 2 ^ 31 else 0))

/-! ### The checks of orders 1 to 3 (R124) -/

/-- BOUNDS, then ALIGN, then PERM over the lanes: the elements of lane t are `elems t`. -/
def Here.elementCheck (h : Here) (b : Buf) (act : Mask) (lanes : List Nat) (elems : Nat → List Nat) (perm : Bool) : Option Trap :=
  let mask (p : Nat → Bool) : Mask :=
    if lanes.length = (act.lanes h.team.e0).length then Mask.ofPred h.team.e0 fun t => act.has t && p t
    else if lanes.any p then act else 0#1024
  let outOf (t : Nat) : Option (Nat × Bool) := (elems t).findSome? fun e => match b.addr e with | .error x => some x | .ok _ => none
  let offOf (t : Nat) : Option Nat := (elems t).findSome? fun e =>
    match b.addr e with | .ok a => if a % 2 ^ b.log2 = 0 then none else some a | .error _ => none
  let excess := mask fun t => (outOf t).isSome
  let mis := mask fun t => (offOf t).isSome
  let first (m : Mask) : Nat := (lanes.find? m.has).getD (m.lowest h.team.e0)
  if excess ≠ 0#1024 then
    let lane := (lanes.find? fun t => (outOf t).isSome).getD (first excess)
    let x := (outOf lane).getD (0, false)
    some { cause := cBOUNDS, lanes := some excess, addr := x.1, detail := b.detail x.2, deferred := act &&& ~~~excess, rank := 1 }
  else if mis ≠ 0#1024 then
    let lane := (lanes.find? fun t => (offOf t).isSome).getD (first mis)
    some { cause := cALIGN, lanes := some mis, addr := (offOf lane).getD 0, detail := b.detail true, deferred := act &&& ~~~mis, rank := 2 }
  else if perm ∧ act ≠ 0#1024 then
    let a := ((elems (lanes.headD 0)).head?.bind fun e => (b.addr e).toOption).getD 0
    some { cause := cPERM, lanes := some act, addr := a, detail := 0, rank := 3 }
  else none

/-! ### Lines -/

/-- The bytes of one lane's element within one line. -/
structure Piece where
  lane : Nat
  addr : Nat
  len : Nat
  data : List Byte
  at_ : Nat
  deriving DecidableEq, Repr

/-- What the requests of one instruction share. -/
structure MemOp where
  access : Access
  action : Action
  flow : Option Nat := none
  scope : Nat := 0
  hint : Nat := 0
  pub : Bool := false
  check : Option RaceCheck := none
  deriving DecidableEq, Repr

/-- Ranks of the causes of orders 4 and 5 of one instruction (R124). -/
def rankNOTPRESENT : Nat := 40
def rankPERM : Nat := 41
def rankS2DENY : Nat := 42
def rankUE : Nat := 50
def rankRACE : Nat := 51
def rankSCOPE : Nat := 52

/-- The kind of access that a request's line was translated for. -/
def Action.access : Action → Access
  | .write | .atomic .. | .claim | .post | .release _ | .ptw => .write
  | _ => .read

/-- What a command of the matrix unit does to memory (R188). -/
def Cmd.action (c : Cmd) : Option Action :=
  match c.what with
  | .load .. => some (.read false)
  | .save .. | .drain .. => some .write
  | _ => none

/-- What translating a line gives. -/
inductive LineAnswer where
  | ok (p : Place)
  /-- a fault; the HPA and kind of the dropped request to be logged -/
  | bad (t : Trap) (log : Option (Nat × Access))
  | miss (gpa : Nat) (table : Bool)
  deriving DecidableEq, Repr

/-- The answer for a virtual address, to an access of cluster `c`, with the trap it raises at `addr`. -/
def State.lineAnswer (s : State) (c vd va addr : Nat) (kind : Access) : LineAnswer :=
  match s.translate c vd va kind with
  | .ok p _ _ =>
    if s.worldDenies vd p then .bad { cause := cPERM, addr := addr, detail := 2, rank := rankPERM } (some ((s.served vd p false).addr + addr % 128, kind))
    else .ok p
  | .notPresent lvl g => .bad { cause := cNOTPRESENT, addr := addr, detail := BitVec.ofNat 32 lvl, pte := g, rank := rankNOTPRESENT } none
  | .perm => .bad { cause := cPERM, addr := addr, detail := 1, rank := rankPERM } none
  | .world hpa => .bad { cause := cPERM, addr := addr, detail := 2, rank := rankPERM } (some (hpa, kind))
  | .miss g t => .miss g t

/-- Log the request that an access of a fragment or context dropped, if it did (R388, R432). -/
def State.logDrop (s : State) (src dev : Nat) : Option (Nat × Access) → State
  | some (hpa, kind) => s.logWorld { hpa := hpa, src := src, kind := kind.code, engine := false, dev := dev }
  | none => s

/-- The accesses lie in the bytes that the metadata covers (R154). -/
def RaceCheck.covers (c : RaceCheck) (ps : List Piece) : Bool :=
  ps.all fun p => decide (c.base ≤ p.addr) && decide (p.addr + p.len ≤ c.table)

/-- The race-metadata entries that accesses of a line need, by virtual address (R154). -/
def RaceCheck.entries (c : RaceCheck) (ps : List Piece) : List Nat :=
  (ps.flatMap fun p => [(p.addr - c.base) / 512, (p.addr + p.len - 1 - c.base) / 512]).eraseDups.map fun g => c.table + 32 * g

/-- The choices of the tape that a line takes: one for itself, and one for each line of race metadata that its granules can lie in
(R395). -/
def MemOp.choices (m : MemOp) : Nat := if m.check.isSome then 3 else 1

/-- The answer for the data line, and then for its race metadata, each by a choice of its own (R154, R395). -/
def State.pieceAnswer (s : State) (cl vd : Nat) (m : MemOp) (ps : List Piece) : LineAnswer :=
  let first := (ps.head?.map (·.addr)).getD 0
  match s.lineAnswer cl vd first first m.access with
  | .ok p =>
    match m.check with
    | none => .ok p
    | some c =>
      match (c.entries ps).zipIdx.findSome? fun e =>
        match (s.choicesOn (e.2 + 1)).lineAnswer cl vd e.1 e.1 .write with | .ok _ => none | x => some x with
      | some x => x
      | none => .ok p
  | x => x

/-- The source of a team's or context's requests (R145): its quadrant, or 864 and the context's number. -/
def Here.source (h : Here) : Nat :=
  (if h.team.isCore then 864 else 0) + 4 * h.group.cluster + h.team.quadrant

/-- An access is not known to be performed and acknowledged. -/
def State.unsettled (s : State) (id : Nat) : Bool := s.outstanding id || s.acks.contains id

/-- Change the requests in flight and those held for a page request. -/
def State.mapReqs (s : State) (k : Req → Req) : State :=
  let w (x : Waiter) : Waiter := match x with | .line r g => .line (k r) g | x => x
  { s with
    reqs := s.reqs.map k
    vds := s.vds.map fun v =>
      if v.pageReqs.isEmpty then v
      else { v with pageReqs := v.pageReqs.map fun r => { r with waiters := r.waiters.map w } } }

/-- Faults of one instruction with one cause become one: all its lanes and lines, and the record of the lowest lane. -/
def mergeFaults (fs : List (Trap × Mask × Nat × Nat)) : List Trap :=
  let ranks := (fs.map fun f => f.1.rank).eraseDups
  ranks.filterMap fun r =>
    let these := fs.filter fun f => f.1.rank == r
    let lowest := minOf (these.map (·.2.2.1))
    (these.find? fun f => f.2.2.1 == lowest).map fun f =>
      { f.1 with lanes := some (these.foldl (fun m g => m ||| g.2.1) 0#1024), lines := some (these.map (·.2.2.2)) }

/-- A hint: what does not translate is dropped, and nothing is reported (R312, R341). -/
def MemOp.silent (m : MemOp) : Bool := decide (m.action = .prefetch) || decide (m.action = .flush)

/-- Put the requests of an operation in flight: each distinct line is translated once, by a choice of its own (R395), and each pass sends
one request for each of its lines; lines that fault or miss are reported and held (R125, R392). -/
def State.sendLines (s : State) (h : Here) (op : Nat) (act : Mask) (uni : Bool) (m : MemOp) (pieces : List Piece) :
    State × Here × List Trap :=
  let pieces := match h.frag.lines with
    | none => pieces
    | some ls => pieces.filter fun p => ls.contains (p.addr / 128)
  let lines := (pieces.map fun p => p.addr / 128).eraseDups
  let answers : List (Nat × LineAnswer) := lines.zipIdx.map fun l =>
    (l.1, (s.choicesOn (m.choices * l.2)).pieceAnswer h.group.cluster h.group.vd m (pieces.filter fun p => p.addr / 128 == l.1))
  let answers := if m.silent then answers.filter fun a => (match a.2 with | .ok _ => true | _ => false) else answers
  let walks := lines.zipIdx.map fun l => (l.1, (s.choicesOn (m.choices * l.2)).translate h.group.cluster h.group.vd (l.1 * 128) m.access)
  let walk (l : Nat) : Walk := ((walks.find? fun w => w.1 == l).map (·.2)).getD .perm
  let s := lines.foldl (fun s l =>
    State.choicesOn (match (answers.find? fun (a : Nat × LineAnswer) => a.1 == l).map Prod.snd with
      | some (LineAnswer.ok _) => s.keepTlb h.group.cluster h.group.vd (l * 128) m.access (walk l)
      | some (.bad _ log) => s.logDrop (h.group.slotOf h.team) h.group.vd log
      | _ => s) m.choices) s
  let faults := answers.filterMap fun a =>
    match a.2 with
    | .bad t _ =>
      let lanes := (pieces.filter fun p => p.addr / 128 == a.1).map (·.lane)
      let low := minOf lanes
      let addr := ((pieces.find? fun p => p.addr / 128 == a.1 && p.lane == low).map (·.addr)).getD t.addr
      some ({ t with addr := if t.addr / 128 = a.1 then addr else t.addr },
        (if uni then act else Mask.ofPred h.team.e0 fun k => lanes.contains k), low, a.1)
    | _ => none
  let keys := (pieces.map fun p => (p.lane / 32, p.addr / 128)).eraseDups
  let isWrite := m.access = .write
  let waits := if isWrite then h.frag.release.filter s.outstanding else []
  let mk (id : Nat) (k : Nat × Nat) (place : Place) : Req :=
    { id := id, root := id, later := [], gid := h.group.gid, tid := h.team.tid, op := op, vd := h.group.vd, cluster := h.group.cluster, action := m.action,
      place := place, va := k.2 * 128,
      lanes := (pieces.filter fun p => p.lane / 32 == k.1 && p.addr / 128 == k.2).map fun p =>
        { lane := p.lane, off := p.addr % 128, len := p.len, data := p.data, at_ := p.at_ },
      src := h.source, flow := m.flow, scope := m.scope, hint := m.hint, waits := waits, once := uni, pub := m.pub, check := m.check,
      landed := false, via := (walk k.2).via }
  let from_ := s.nextReq
  let s := keys.foldl (fun (s : State) k =>
    let id := s.nextReq
    match (answers.find? fun (a : Nat × LineAnswer) => a.1 == k.2).map Prod.snd with
    | some (.ok place) => { s with nextReq := id + 1, reqs := s.reqs ++ [mk id k place] }
    | some (.miss g t) =>
      let r := mk id k { space := .device, addr := 0, keyid := 0, dual := none }
      ({ s with nextReq := id + 1 }).pageMiss h.group.vd (dieOf h.group.cluster) (h.group.slotOf h.team) r.va g
        (if t then 1 else 0) isWrite [.line r g]
    | _ => s) s
  let new := (List.range (s.nextReq - from_)).map (from_ + ·)
  (s, { h with frag := { h.frag with hist := h.frag.hist.filter s.unsettled ++ new } }, mergeFaults faults)

end Sys2Proof.Machine
end

