-- ==== Sys2Proof/Machine/Waits.lean ====
section
/-!
DEFINITION. What requests and events change of the agents that wait: updates by name, advisories, faults of outstanding
operations, waits of FENCE, PTW and INVL, and write-backs (06 R144; 16 R338, R339; 19 R360, R361; 22 R398).
-/
namespace Sys2Proof.Machine

/-! ### Updates by name -/

def State.modGroup (s : State) (gid : Nat) (k : Group → Group) : State :=
  { s with groups := s.groups.map fun g => if g.gid = gid then k g else g }
def Group.modTeam (g : Group) (tid : Nat) (k : Team → Team) : Group :=
  if tid = coreTid then { g with core := g.core.map k }
  else { g with teams := g.teams.map fun t => if t.tid = tid then k t else t }
def State.modTeam (s : State) (gid tid : Nat) (k : Team → Team) : State := s.modGroup gid fun g => g.modTeam tid k
def Team.modFrag (t : Team) (ent part : Nat) (k : Frag → Frag) : Team :=
  { t with frags := t.frags.map fun f => if f.entry = ent ∧ f.part = part then k f else f }
def State.modFrag (s : State) (a : AgentId) (k : Frag → Frag) : State :=
  s.modTeam a.gid a.tid fun t => t.modFrag a.ent a.part k
def Team.modOut (t : Team) (op : Nat) (k : Out → Out) : Team :=
  { t with outs := t.outs.map fun o => if o.id = op then k o else o }

/-- The group, team and fragment that an agent id names. -/
def State.agent? (s : State) (a : AgentId) : Option (Group × Team × Frag) :=
  match s.group? a.gid with
  | none => none
  | some g =>
    match g.team? a.tid with
    | none => none
    | some t => (t.frag? a.ent a.part).map fun f => (g, t, f)

/-- The agents of a group. -/
def Group.agents (g : Group) : List AgentId :=
  g.allTeams.flatMap fun t => t.frags.map fun f => { gid := g.gid, tid := t.tid, ent := f.entry, part := f.part }

/-- The operation of a request. -/
def State.outOf (s : State) (r : Req) : Option Out :=
  ((s.group? r.gid).bind fun g => g.team? r.tid).bind fun t => t.outs.find? fun o => o.id == r.op

/-- The issuing fragment of a request, as the instruction saw it. -/
def State.hereOf (s : State) (r : Req) : Option Here :=
  match s.group? r.gid with
  | none => none
  | some g =>
    match g.team? r.tid with
    | none => none
    | some t => (t.frags.find? fun f => f.hist.contains r.root).map fun f =>
        { group := g, team := t, frag := f, clock := s.clock, fresh := s.fresh }

/-! ### Advisories and poisoned words (R360, R361) -/

/-- Queue an advisory event of a launch; a ninth is lost and counted. -/
def State.advise (s : State) (launch code va : Nat) : State :=
  match s.launch? launch with
  | none => s
  | some l =>
    if l.advmask.getLsbD code = false then s
    else if l.advisories.length < 8 then s.setLaunch { l with advisories := l.advisories ++ [(code, va)] }
    else
      let lost (t : Team) : Team :=
        { t with pwcnt := BitVec.ofNat 32 (t.pwcnt.toNat % 65536 + 65536 * min (t.pwcnt.toNat / 65536 + 1) 65535) }
      { s with groups := s.groups.map fun g =>
          if g.launch = launch then { g with teams := g.teams.map lost, core := g.core.map lost } else g }

/-- Count n poisoned words of a team in PWCNT [15:0]. -/
def Team.countPoison (t : Team) (n : Nat) : Team :=
  { t with pwcnt := BitVec.ofNat 32 (min (t.pwcnt.toNat % 65536 + n) 65535 + 65536 * (t.pwcnt.toNat / 65536)) }

/-- Queue advisory 5 once for each of n words. -/
def State.adviseWords (s : State) (launch : Nat) : Nat → State
  | 0 => s
  | n + 1 => (s.advise launch 5 0).adviseWords launch n

/-! ### Faults of outstanding operations (R86, R124) -/

/-- Add a fault to those of a team: one with the same cause and rank of the same instruction takes its lanes and lines. -/
def addFault (e0 : Nat) (fs : List PendFault) (p : PendFault) : List PendFault :=
  match fs.find? fun q => q.op == p.op && q.rank == p.rank && q.cause == p.cause && q.pc == p.pc with
  | none => insertFault fs p
  | some q =>
    let first := if p.lanes.lowest e0 < q.lanes.lowest e0 then p else q
    let both : PendFault := { first with
      lanes := q.lanes ||| p.lanes, deferred := q.deferred ||| p.deferred,
      lines := match q.lines, p.lines with | some a, some b => some (a ++ b).eraseDups | _, _ => none }
    fs.map fun x => if x = q then both else x

/-- The lanes of an operation that a request acts for. -/
def Req.laneMask (r : Req) (o : Out) (lanes : List Nat) : Mask :=
  if r.once then (if lanes.isEmpty then 0#1024 else o.lanes) else lanes.foldl (fun m t => m ||| BitVec.ofNat 1024 (2 ^ t)) 0#1024

/-- A request's operation faults in some lanes: the trap stands at the fragment's park. -/
def State.faultReq (s : State) (r : Req) (lanes : List Nat) (t : Trap) : State :=
  match s.outOf r with
  | none => s
  | some o =>
    s.modTeam r.gid r.tid fun tm =>
      { tm with faults := addFault tm.e0 tm.faults (o.fault { t with
          lanes := some (t.lanes.getD (r.laneMask o lanes)), dest := o.dst, lines := t.lines.or (some [r.va / 128]) }) }

/-! ### Write-backs (R398, R341) -/

/-- A line of device memory has no place to be written to, and no checks to stand in: its unit is retired, no new place is given yet, and
its stripe's checks are stale or unreliable. Its slice keeps it until they are recomputed (R399, R405; log 148). -/
def State.placeless (s : State) (addr : Nat) : Bool :=
  s.unitLost addr (lineIn addr) && !s.lineAway addr (lineIn addr) &&
  (s.sv.stale.contains (stripeOf addr) || s.sv.unreliable.contains (stripeOf addr))

/-- Write a line back if it is held dirty, is not on its way to a new home (R403), and has a place: it stays, clean, and for device memory
its check deltas are sent. -/
def State.writeBackLine (s : State) (sp : Space) (addr : Nat) : State :=
  match s.dirty.find? fun d => decide (d.space = sp) && d.addr == addr &&
      !(decide (sp = .device) && (s.placeless addr || s.sv.handoffs.any fun h => h.1 == addr)) with
  | none => s
  | some d =>
    let s := { s with dirty := s.dirty.filter fun e => !(decide (e.space = sp) && e.addr == addr) }
    match sp with
    | .device =>
      let s := s.wholeLine addr (lineIn addr)
      { s with sv := { s.sv with deltas := s.sv.deltas ++
          [{ stripe := stripeOf addr, line := lineIn addr, slice := d.slice, old := d.old, new := s.storedLine .device addr,
             waits := [16, 17] }] } }
    | _ => s

/-! ### Waits of FENCE, PTW and INVL -/

/-- Discard first-stage translations, and list the accesses in flight that used them (R339). -/
def State.discardTlb (s : State) (vd : Nat) (page : Option Nat) : State × List Nat :=
  let gone := s.tlb.filter fun e => e.vd == vd && (match page with
    | none => true
    | some va => decide (e.va ≤ va) && decide (va < e.va + e.size))
  let after := (s.reqs.filter fun r => r.vd == vd && gone.any fun e => decide (e.va ≤ r.va) && decide (r.va < e.va + e.size)
    && decide (r.place.space = .device ∨ r.place.space = .tier2)).map (·.root)
  (s.dropTlb vd page, after)

/-- The second step of an INVL, once its earlier writes are performed. -/
def State.invalidate (s : State) (a : AgentId) (vd : Nat) (page : Option Nat) : State :=
  let r := s.discardTlb vd page
  r.1.modFrag a fun f => if r.2.isEmpty then f.wake s.clock else { f with park := .invl [] page r.2 }

/-- A load or an atomic of a fragment has not returned (R83, R144). -/
def Team.loadsOut (t : Team) (f : Frag) : Bool :=
  (t.outsOf f).any fun o => decide (o.kind = .memory) && (!o.dst.isEmpty || o.brec.isSome)

/-- A fragment parked in a FENCE, PTW or INVL goes on when its wait is over. -/
def State.wakeWait (s : State) (a : AgentId) : State :=
  match s.agent? a with
  | none => s
  | some (g, t, f) =>
    let done (l : List Nat) : Bool := l.all fun id => !s.outstanding id
    match f.park with
    | .fence perform acks acquire scope =>
      if done perform && !(acquire && t.loadsOut f) && acks.all fun id => !s.unsettled id then
        let s := s.modFrag a (Frag.wake s.clock)
        if acquire then s.acquireAt g.cluster scope else s
      else s
    | .ptw req => if done [req] then s.modFrag a (Frag.wake s.clock) else s
    | .invl before page after =>
      if !before.isEmpty then (if done before then s.invalidate a g.vd page else s)
      else if done after then s.modFrag a (Frag.wake s.clock) else s
    | _ => s

/-- The parks of this kind. -/
def Park.waits : Park → Bool
  | .fence .. | .ptw _ | .invl .. => true
  | _ => false

/-- Wake every fragment whose wait is over. -/
def State.wakeWaits (s : State) : State :=
  (s.groups.flatMap fun g => g.allTeams.flatMap fun t =>
    (t.frags.filter fun f => f.park.waits).map fun f =>
      ({ gid := g.gid, tid := t.tid, ent := f.entry, part := f.part } : AgentId)).foldl State.wakeWait s

end Sys2Proof.Machine
end

