-- ==== Sys2Proof/Machine/MemoryInstr.lean ====
section
/-!
DEFINITION. Memory instructions, opcodes 0x51 to 0x5C (15 R303 to R312; 06 R142 to R144).
-/
namespace Sys2Proof.Machine

/-- The race check of an access through a record with CHECK (R154). -/
def Here.recordCheck (h : Here) (b : Nat) : Option RaceCheck :=
  let r := h.bufRecord b
  if !recCheck r then none
  else some { slot := h.group.slotOf h.team, seq := h.frag.seq, base := recBase r,
              table := recBase r + (recExtent r * recStride r + 511) / 512 * 512 }

/-- The race check of a scratchpad access under SPCHECK: the entries lie in the top sixteenth (R155). -/
def Here.spadCheck (h : Here) : Option RaceCheck :=
  if !h.group.spcheck then none
  else some { slot := h.group.slotOf h.team, seq := h.frag.seq, base := 0, table := h.group.spad - h.group.spad / 16 }

/-- The requests of accesses to the group's scratchpad: one for each word, or each element of an atomic (R137). -/
def State.sendWords (s : State) (h : Here) (op : Nat) (uni : Bool) (m : MemOp) (pieces : List Piece) : State × Here :=
  let pieces := match h.frag.lines with
    | none => pieces
    | some ls => pieces.filter fun p => ls.contains (p.addr / 128)
  let words := pieces.flatMap fun p => (List.range ((p.len + 3) / 4)).map fun k =>
    { p with addr := p.addr + 4 * k, len := min 4 (p.len - 4 * k), at_ := p.at_ + 4 * k,
             data := match m.action with | .atomic .. => p.data | _ => (p.data.drop (4 * k)).take 4 }
  let keys := (words.map fun p => (p.lane / 32, p.addr / 4)).eraseDups
  let waits := if m.access = .write then h.frag.release.filter s.outstanding else []
  let s' := keys.foldl (fun (s : State) k =>
    let r : Req :=
      { id := s.nextReq, root := s.nextReq, later := [], gid := h.group.gid, tid := h.team.tid, op := op, vd := h.group.vd, cluster := h.group.cluster,
        action := m.action, place := { space := .scratch h.group.gid, addr := k.2 * 4, keyid := 0, dual := none }, va := k.2 * 4,
        lanes := (words.filter fun p => p.lane / 32 == k.1 && p.addr / 4 == k.2).map fun p =>
          { lane := p.lane, off := p.addr % 4, len := p.len, data := p.data, at_ := p.at_ },
        src := h.source, flow := none, scope := m.scope, hint := 0, waits := waits, once := uni, pub := false, check := m.check, landed := true, via := [] }
    { s with nextReq := s.nextReq + 1, reqs := s.reqs ++ [r] }) s
  let new := (List.range (s'.nextReq - s.nextReq)).map (s.nextReq + ·)
  (s', { h with frag := { h.frag with hist := h.frag.hist.filter s'.unsettled ++ new } })

/-- The shared course of an instruction with requests: the register checks, the checks of orders 1 to 3, the requests and
the operation in flight with the faults found, and the instruction boundary. `lanes` are those that are performed. -/
def State.access (s : State) (h : Here) (y : Bool) (u : Uses) (b : Buf) (uni perm : Bool) (m : MemOp) (lanes : List Nat)
    (elems : Nat → List Nat) (pieces : Nat → List Piece) : State :=
  s.checked h u fun h =>
    let h := { h with fresh := if h.readsFree u then h.fresh + 4096 else h.fresh }
    if u.act = 0#1024 then s.put { h with frag := h.frag.finish y }
    else
      let o := h.newOut u .memory
      match h.elementCheck b u.act lanes elems perm with
      | some t => s.put (let h := h.start o [{ t with dest := o.dst }]; { h with frag := h.frag.finish y })
      | none =>
        let ps := lanes.flatMap pieces
        if b.window then
          let r := s.sendWords h o.id uni m ps
          r.1.put (let h := r.2.start o []; { h with frag := h.frag.finish y })
        else
          let r := s.sendLines h o.id u.act uni m ps
          r.1.put (let h := r.2.1.start o (r.2.2.map fun t => { t with dest := o.dst }); { h with frag := h.frag.finish y })

/-! ### Loads and stores (R305, R306) -/

/-- The words that an element of 2^lsz bytes takes. -/
def elemWords (lsz : Nat) : Nat := if lsz ≤ 2 then 1 else 2 ^ (lsz - 2)

/-- The elements of lane t: e, or e to e + 3 for LDV and STV. -/
def Here.elems (h : Here) (i : BitVec 8) (k : Nat) (vec : Bool) (t : Nat) : List Nat :=
  let e := (h.read i.toNat t).toNat + k
  if vec then [e, e + 1, e + 2, e + 3] else [e]

/-- The flow of an access through a record (R145). -/
def Here.flowOf (h : Here) (b : Nat) : Option Nat := if recOrd (h.bufRecord b) then some (recFlow (h.bufRecord b)) else none

/-- TYPE is a signed integer, for the extension of narrow elements (R123). -/
def Here.signed (h : Here) : Bool := match h.format with | .int s _ => s | _ => false

/-- The shared course of LD, LDV and LDS. -/
def State.load (s : State) (h : Here) (y : Bool) (w : Word) (d : BitVec 8) (b : Buf) (k : Nat) (i : BitVec 8) (vec illop : Bool) : State :=
  let lsz := b.log2
  let words := if vec then 4 else elemWords lsz
  let full := h.team.isCore || h.active == h.team.live
  let uni := full && (h.shapeWord i.toNat == .u)
  let u : Uses :=
    { word := w, illop := illop || (vec && decide (2 < lsz)), writes := [(d.toNat, words)], reads := [(i.toNat, 1)], long := true,
      brec := if b.window then none else some b.num, window := if b.window then some b.num else none, act := h.active,
      grow := if uni || h.team.isCore then [] else growOf .g d.toNat words }
  let lanes := if uni then [h.active.lowest h.team.e0] else h.lanes
  let pieces (t : Nat) : List Piece := (h.elems i k vec t).zipIdx.filterMap fun p =>
    match b.addr p.1 with
    | .ok a => some { lane := t, addr := a, len := 2 ^ lsz, data := [], at_ := 4 * p.2 }
    | .error _ => none
  let m : MemOp :=
    { access := .read, action := .read (h.signed && decide (lsz < 2)), flow := if b.window then none else h.flowOf b.num,
      hint := if b.window then 0 else modeHint h.frag.mode, pub := !b.window && recPub (h.bufRecord b.num),
      check := if b.window then h.spadCheck else h.recordCheck b.num }
  s.access h y u b uni false m lanes (h.elems i k vec) pieces

/-- The bytes that lane t stores from the registers of D. -/
def Here.storeBytes (h : Here) (d : BitVec 8) (lsz q t : Nat) : List Byte :=
  if lsz ≤ 2 then leBytes (2 ^ lsz) (h.read (d.toNat + q) t).toNat
  else leBytes (2 ^ lsz) (h.readN d.toNat (elemWords lsz) t)

/-- The shared course of ST, STV and STS. -/
def State.store (s : State) (h : Here) (y : Bool) (w : Word) (d : BitVec 8) (b : Buf) (k : Nat) (i : BitVec 8) (vec illop : Bool) : State :=
  let lsz := b.log2
  let words := if vec then 4 else elemWords lsz
  let full := h.team.isCore || h.active == h.team.live
  let uni := full && (h.shapeWord i.toNat == .u) && ((List.range words).all fun q => h.shapeWord (if d.toNat < 0xD0 then d.toNat + q else d.toNat) == .u)
  let u : Uses :=
    { word := w, illop := illop || (vec && decide (2 < lsz)), reads := [(d.toNat, words), (i.toNat, 1)],
      brec := if b.window then none else some b.num, window := if b.window then some b.num else none, act := h.active }
  let lanes := if uni then [h.active.lowest h.team.e0] else h.lanes
  let pieces (t : Nat) : List Piece := (h.elems i k vec t).zipIdx.filterMap fun p =>
    match b.addr p.1 with
    | .ok a => some { lane := t, addr := a, len := 2 ^ lsz, data := h.storeBytes d lsz p.2 t, at_ := 0 }
    | .error _ => none
  let r := h.bufRecord b.num
  let m : MemOp :=
    { access := .write, action := .write, flow := if b.window then none else h.flowOf b.num,
      hint := if b.window then 0 else modeHint h.frag.mode, check := if b.window then h.spadCheck else h.recordCheck b.num }
  s.access h y u b uni (!b.window && (recRo r || recPub r)) m lanes (h.elems i k vec) pieces

/-- LD (R305). -/
def execLd (y : Bool) (d : BitVec 8) (b k : BitVec 4) (i : BitVec 8) (s : State) : Host.Outcome State Fault Refusal :=
  issueS s fun h => s.load h y (wordOf (.ld y d b k i)) d (h.recordBuf b.toNat) k.toNat i false false
/-- ST (R305). -/
def execSt (y : Bool) (d : BitVec 8) (b k : BitVec 4) (i : BitVec 8) (s : State) : Host.Outcome State Fault Refusal :=
  issueS s fun h => s.store h y (wordOf (.st y d b k i)) d (h.recordBuf b.toNat) k.toNat i false false
/-- LDV (R306). -/
def execLdv (y : Bool) (d : BitVec 8) (b k : BitVec 4) (i : BitVec 8) (s : State) : Host.Outcome State Fault Refusal :=
  issueS s fun h => s.load h y (wordOf (.ldv y d b k i)) d (h.recordBuf b.toNat) k.toNat i true false
/-- STV (R306). -/
def execStv (y : Bool) (d : BitVec 8) (b k : BitVec 4) (i : BitVec 8) (s : State) : Host.Outcome State Fault Refusal :=
  issueS s fun h => s.store h y (wordOf (.stv y d b k i)) d (h.recordBuf b.toNat) k.toNat i true false
/-- LDS (R305). -/
def execLds (y : Bool) (d : BitVec 8) (b k : BitVec 4) (i : BitVec 8) (s : State) : Host.Outcome State Fault Refusal :=
  issueS s fun h => s.load h y (wordOf (.lds y d b k i)) d (h.windowBuf b.toNat) k.toNat i false h.team.isCore
/-- STS (R305). -/
def execSts (y : Bool) (d : BitVec 8) (b k : BitVec 4) (i : BitVec 8) (s : State) : Host.Outcome State Fault Refusal :=
  issueS s fun h => s.store h y (wordOf (.sts y d b k i)) d (h.windowBuf b.toNat) k.toNat i false h.team.isCore

/-! ### Atomics (R307, R308) -/

/-- The TYPE codes that an atomic operation accepts. -/
def atomType (k type : Nat) : Bool :=
  match k with
  | 0 | 1 | 2 | 8 | 9 => decide (type ≤ 1)
  | 3 | 4 | 5 | 6 | 7 => decide (type ≤ 1) || type == 8
  | 10 => type == 8
  | _ => false

/-- The trap of a scope above the device's ceiling (R142, R354). -/
def scopeTrap (scope ceiling addr : Nat) : Trap :=
  { cause := cSCOPE, addr := addr, detail := BitVec.ofNat 32 (scope + 8 * ceiling), rank := rankSCOPE }

/-- The shared course of ATOM and ATOMS, which end the fragment's regions. A scope above the ceiling is found where each
access would be performed (R142). -/
def State.atomicOp (s : State) (h : Here) (y : Bool) (w : Word) (d : BitVec 8) (b : Buf) (k : Nat) (i : BitVec 8) (illop : Bool) : State :=
  let sh := if 1 < h.lanes.length then Shape.g
    else h.shapeOf .other h.active [h.shapeWord d.toNat, h.shapeWord (d.toNat + 1), h.shapeWord i.toNat]
  let u : Uses :=
    { word := w, illop := illop || b.log2 != 2 || !atomType k h.type, writes := [(d.toNat, 2)],
      reads := [(d.toNat, if k = 7 then 2 else 1), (i.toNat, 1)], long := true,
      brec := if b.window then none else some b.num, window := if b.window then some b.num else none, act := h.active,
      grow := if h.team.isCore then [] else growOf sh d.toNat 2 }
  s.checked h u fun h =>
    let h := h.endRegions
    let pieces (t : Nat) : List Piece :=
      match b.addr (h.read i.toNat t).toNat with
      | .ok a => [{ lane := t, addr := a, len := 4,
                    data := leBytes 4 (h.read d.toNat t).toNat ++ leBytes 4 (h.read (d.toNat + 1) t).toNat, at_ := 0 }]
      | .error _ => []
    let r := h.bufRecord b.num
    let m : MemOp :=
      { access := .write, action := .atomic k h.type h.rnd h.ftz, flow := if b.window then none else h.flowOf b.num,
        scope := modeScope h.frag.mode, check := if b.window then h.spadCheck else h.recordCheck b.num }
    s.access h y u b false (!b.window && (recRo r || recPub r)) m h.lanes (h.elems i 0 false) pieces

/-- ATOM (R307). -/
def execAtom (y : Bool) (d : BitVec 8) (b k : BitVec 4) (i : BitVec 8) (s : State) : Host.Outcome State Fault Refusal :=
  issueS s fun h => s.atomicOp h y (wordOf (.atom y d b k i)) d (h.recordBuf b.toNat) k.toNat i false
/-- ATOMS (R307). -/
def execAtoms (y : Bool) (d : BitVec 8) (b k : BitVec 4) (i : BitVec 8) (s : State) : Host.Outcome State Fault Refusal :=
  issueS s fun h => s.atomicOp h y (wordOf (.atoms y d b k i)) d (h.windowBuf b.toNat) k.toNat i h.team.isCore

/-! ### FENCE (R143, R144, R309) -/

/-- An access of the fragment that is not performed: its action, in flight, held, or in the queue of a matrix unit. -/
def State.actionOf (s : State) (id : Nat) : Option Action :=
  ((s.reqs.find? fun r => r.root == id).map (·.action)).or
    ((s.vds.findSome? fun v => v.pageReqs.findSome? fun q => q.waiters.findSome? fun w =>
      match w with | .line r _ => if r.root = id then some r.action else none | _ => none).or
    (s.groups.findSome? fun g => g.munit.queue.findSome? fun c => if c.acc = id then c.action else none))

/-- Actions that read and return a value (R144). -/
def Action.isLoad : Action → Bool
  | .read _ | .atomic .. | .readRecord | .claim | .await _ | .release _ | .promise | .seal => true
  | _ => false
/-- Actions that write. -/
def Action.isWrite : Action → Bool
  | .write | .atomic .. | .ptw | .claim | .queueStore _ | .post | .release _ | .sealRelease _ | .publish => true
  | _ => false

/-- FENCE: kind 0 acquire, 1 release, 2 acquire-release, 3 full (R144). What it waits for, it waits for whatever its scope, so its
order holds for every agent (log 122). -/
def execFence (y : Bool) (wack : BitVec 1) (kind : BitVec 2) (scope : BitVec 3) (s : State) : Host.Outcome State Fault Refusal :=
  issueS s fun h =>
    let w := wordOf (.fence y wack kind scope)
    let ceiling := (s.vd h.group.vd).ceiling
    match h.check { word := w, illop := scope == 7#3, guard := false } with
    | some t => s.put (h.raise h.frag.acting t)
    | none =>
      if ceiling < scope.toNat then s.put (h.raise h.frag.acting { scopeTrap scope.toNat ceiling 0 with rank := 0 })
      else
        let h := h.endRegions
        let acquire := kind != 1#2
        let open_ := h.frag.hist.filter s.outstanding
        let loads := if acquire then open_.filter fun id => ((s.actionOf id).map Action.isLoad).getD false else []
        let writes := if kind = 3#2 then open_.filter fun id => ((s.actionOf id).map Action.isWrite).getD false else []
        let acks := if wack = 1#1 then h.frag.hist.filter fun id =>
            s.acks.contains id || ((s.actionOf id).map fun x => x.isWrite || decide (x = .flush)).getD false else []
        let f := { h.frag with release := if kind = 0#2 then h.frag.release else (h.frag.release ++ open_).eraseDups }
        if loads.isEmpty && writes.isEmpty && acks.isEmpty && !(acquire && h.team.loadsOut h.frag) then
          let s := s.put { h with frag := f.finish y }
          if acquire then s.acquireAt h.group.cluster scope.toNat else s
        else
          s.put { h with frag := Frag.finish y { f with park := .fence (loads ++ writes) acks acquire scope.toNat } }

/-! ### Buffer records and prefetch (R310 to R312) -/

/-- The lowest-numbered active lane as a mask: what an instruction that acts once reads (R304). -/
def Here.once (h : Here) : Mask := if h.active = 0#1024 then 0#1024 else BitVec.ofNat 1024 (2 ^ h.active.lowest h.team.e0)

/-- LDRB (R310). -/
def execLdrb (y : Bool) (d b k : BitVec 4) (i : BitVec 8) (s : State) : Host.Outcome State Fault Refusal :=
  issueS s fun h =>
    let buf := h.recordBuf b.toNat
    let lane := h.active.lowest h.team.e0
    let u : Uses := { word := wordOf (.ldrb y d b k i), illop := buf.log2 != 4, reads := [(i.toNat, 1)], long := true,
                      brec := some b.toNat, bdst := some d.toNat, act := h.active,
                      poison := some (h.poisonRead { word := 0#32, reads := [(i.toNat, 1)], act := h.once }) }
    let m : MemOp := { access := .read, action := .readRecord, flow := h.flowOf b.toNat, hint := modeHint h.frag.mode,
                       pub := recPub (h.bufRecord b.toNat), check := h.recordCheck b.toNat }
    let pieces (t : Nat) : List Piece := match buf.addr ((h.read i.toNat t).toNat + k.toNat) with
      | .ok a => [{ lane := t, addr := a, len := 16, data := [], at_ := 0 }]
      | .error _ => []
    s.access h y u buf true false m [lane] (h.elems i k.toNat false) pieces

/-- MKRB (R311). -/
def execMkrb (y : Bool) (d : BitVec 4) (a b : BitVec 8) (s : State) : Host.Outcome State Fault Refusal :=
  issue s fun h =>
    let w := wordOf (.mkrb y d a b)
    h.run y { word := w, reads := [(a.toNat, 2), (b.toNat, 2)], bdst := some d.toNat, act := h.active,
              poison := some (h.poisonRead { word := w, reads := [(a.toNat, 2), (b.toNat, 2)], act := h.once }) } fun h =>
      if h.active = 0#1024 then (h, none)
      else
        let t := h.active.lowest h.team.e0
        let r := BitVec.ofNat 128 (h.readN a.toNat 2 t + 2 ^ 64 * h.readN b.toNat 2 t)
        if recOk r then ({ h with team := { h.team with b := h.team.b.set d.toNat r } }, none)
        else (h, some { cause := cILLOP, lanes := some h.active, detail := w })

/-- The lines that a hint reaches: lanes that would fail a check are dropped, and so are lines that do not translate
(R312, R341). -/
def State.hintLines (s : State) (h : Here) (b k : Nat) (i : BitVec 8) (kind : Access) (m : MemOp) : State × Here :=
  let buf := h.recordBuf b
  let ps := h.lanes.filterMap fun t => match buf.addr ((h.read i.toNat t).toNat + k) with
    | .ok a => if a % 2 ^ buf.log2 = 0 then some ({ lane := t, addr := a, len := 1, data := [], at_ := 0 } : Piece) else none
    | .error _ => none
  let r := s.sendLines { h with frag := { h.frag with lines := none } } h.team.nextOp h.active false { m with access := kind } ps
  (r.1, { r.2.1 with team := { r.2.1.team with nextOp := r.2.1.team.nextOp + 1 }, frag := { r.2.1.frag with lines := h.frag.lines } })

/-- PRFM (R312). -/
def execPrfm (y : Bool) (b k : BitVec 4) (i : BitVec 8) (s : State) : Host.Outcome State Fault Refusal :=
  issueS s fun h =>
    match h.check { word := wordOf (.prfm y b k i), reads := [(i.toNat, 1)], brec := some b.toNat, act := h.active } with
    | some t => s.put (h.raise h.active t)
    | none =>
      if modeHint h.frag.mode = 3 then s.put { h with frag := h.frag.finish y }
      else
        let r := s.hintLines h b.toNat k.toNat i .read
          { access := .read, action := .prefetch, flow := h.flowOf b.toNat, hint := modeHint h.frag.mode,
            pub := recPub (h.bufRecord b.toNat) }
        r.1.put { r.2 with frag := r.2.frag.finish y }

end Sys2Proof.Machine
end

