-- ==== Sys2Proof/Machine/Async.lean ====
section
/-!
DEFINITION. Asynchronous instructions, opcodes 0x5D to 0x64 (15 R313 to R322): queues, rings, layout handles, PUBLISH.
What they do at their object's home is in LineRequest.lean.
-/
namespace Sys2Proof.Machine

/-- An object named through BW (R313): its address (a virtual address, or an offset in the scratchpad), its size and
alignment, and whether it is long enough. -/
structure ObjectAt where
  buf : Buf
  addr : Nat
  size : Nat
  align : Nat
  long : Bool
  deriving DecidableEq, Repr

/-- A queue descriptor through a b register. -/
def Here.descAt (h : Here) (b : BitVec 4) : ObjectAt :=
  let f := h.recordBuf b.toNat
  { buf := f, addr := f.base, size := 64, align := 64, long := decide (0 < f.extent) }
/-- A ring object through a b register. -/
def Here.ringAt (h : Here) (b : BitVec 4) : ObjectAt :=
  let f := h.recordBuf b.toNat
  { buf := f, addr := f.base, size := 32, align := 32, long := decide (0 < f.extent) }
/-- A ring object at offset 0 of a window. -/
def Here.windowRingAt (h : Here) (w : BitVec 4) : ObjectAt :=
  let f := h.windowBuf w.toNat
  { buf := f, addr := f.base, size := 32, align := 32, long := decide (32 ≤ f.extent * f.stride) }

/-- The trap of an object's BOUNDS and ALIGN (R354). -/
def ObjectAt.trap (o : ObjectAt) (cause rank : Nat) (detail : Word) : Trap :=
  { cause := cause, addr := o.addr, detail := detail, rank := rank }

/-- The checks of orders 1 to 3 (R313). -/
def Here.objectCheck (h : Here) (o : ObjectAt) (writes : Bool) : Option Trap :=
  let r := h.bufRecord o.buf.num
  if !o.long then some (o.trap cBOUNDS 1 (o.buf.detail true))
  else if o.addr % o.align ≠ 0 then some (o.trap cALIGN 2 (o.buf.detail true))
  else if !o.buf.window && writes && (recRo r || recPub r) then some (o.trap cPERM 3 0)
  else none

/-- What an instruction on an object names besides its operands. -/
def ObjectAt.uses (o : ObjectAt) (u : Uses) : Uses :=
  if o.buf.window then { u with window := some o.buf.num } else { u with brec := some o.buf.num }

/-- The shared course of the instructions on an object: the register checks, the ends of regions, the object's checks, then one
request to the object's home with the data of the lanes, and the instruction boundary. The request waits for `waits`, and
those that follow it for `later`; `park` parks the fragment with the operation. -/
def State.object (s : State) (h : Here) (y : Bool) (u : Uses) (ends : Here → Here) (o : ObjectAt) (writes : Bool) (kind : Access)
    (act : Action) (waits later : List Nat) (lanes : List (Nat × List Byte)) (park : Nat → Park) : State :=
  let u := o.uses u
  s.checked h u fun h =>
    let h := ends h
    let h := { h with fresh := if h.readsFree u then h.fresh + 4096 else h.fresh }
    if u.act = 0#1024 then s.put { h with frag := h.frag.finish y }
    else
      let op := h.newOut u .memory
      match h.objectCheck o writes with
      | some t => s.put (let h := h.start op [{ t with dest := op.dst }]; { h with frag := h.frag.finish y })
      | none =>
        let m : MemOp := { access := kind, action := act, flow := if o.buf.window then none else h.flowOf o.buf.num,
                           hint := modeHint h.frag.mode, pub := !o.buf.window && recPub (h.bufRecord o.buf.num),
                           check := (if o.buf.window then h.spadCheck else h.recordCheck o.buf.num).filter fun c =>
                             c.covers [{ lane := 0, addr := o.addr, len := o.size, data := [], at_ := 0 }] }
        let ps := lanes.map fun p => ({ lane := p.1, addr := o.addr, len := o.size, data := p.2, at_ := 0 } : Piece)
        let h0 := { h with frag := { h.frag with lines := none } }
        let r : State × Here × List Trap :=
          if o.buf.window then
            let q : Req :=
              { id := s.nextReq, root := s.nextReq, later := later, gid := h.group.gid, tid := h.team.tid, op := op.id, vd := h.group.vd, cluster := h.group.cluster,
                action := act, place := { space := .scratch h.group.gid, addr := o.addr, keyid := 0, dual := none },
                va := o.buf.num, lanes := ps.map fun p => { lane := p.lane, off := 0, len := p.len, data := p.data, at_ := 0 },
                src := h.source, flow := none, scope := 0, hint := 0, waits := waits, once := decide (lanes.length < (u.act.lanes h.team.e0).length), pub := false, check := m.check, landed := true, via := [] }
            ({ s with nextReq := s.nextReq + 1, reqs := s.reqs ++ [q] },
             { h with frag := { h.frag with hist := h.frag.hist.filter s.unsettled ++ [q.id] } }, [])
          else
            let r := s.sendLines h0 op.id u.act true m ps
            let from_ := s.nextReq
            let wait (q : Req) : Req := if from_ ≤ q.id then { q with waits := (q.waits ++ waits).eraseDups, later := later, va := o.addr, once := decide (lanes.length < (u.act.lanes h.team.e0).length) } else q
            (r.1.mapReqs wait, r.2)
        let stopped := !r.2.2.isEmpty
        let h := r.2.1.start op (r.2.2.map fun t => { t with dest := op.dst })
        let p := if stopped then .none else park op.id
        let h : Here := if p = .none then h else Here.handOver { h with frag := { h.frag with park := p } }
        r.1.put { h with frag := h.frag.finish y }

/-- The requests that a release of the fragment waits for (R144). -/
def State.openOf (s : State) (h : Here) : List Nat := h.frag.hist.filter s.outstanding

/-- The lowest active lane's value of an operand that is read once (R304). -/
def Here.first (h : Here) (r : BitVec 8) : Nat := (h.read r.toNat (h.active.lowest h.team.e0)).toNat

/-- The poisoned word that an instruction reading once meets (R304). -/
def Here.oncePoison (h : Here) (reads : List (Nat × Nat)) : Option (Option (Nat × Mask)) :=
  some (h.poisonRead { word := 0#32, reads := reads, act := h.once })

/-! ### Queues (R314 to R316) -/

/-- QCLAIM: CCW must name a register. -/
def execQclaim (y : Bool) (d : BitVec 8) (b : BitVec 4) (s : State) : Host.Outcome State Fault Refusal :=
  issueS s fun h =>
    s.object h y { word := wordOf (.qclaim y d b), illop := modeCcw h.frag.mode == 0, writes := [(d.toNat, 1)], long := true,
                   ccWrite := h.ccw, act := h.active, grow := growOf h.oneShape d.toNat 1 }
      Here.endIdem (h.descAt b) true .write .claim [] [] [(h.active.lowest h.team.e0, [])] fun _ => .none

/-- The lanes of an instruction that is performed once when its operands are all U under a full mask (R305). -/
def Here.storeLanes (h : Here) (specs : List Nat) : List Nat :=
  if h.oneShape == .u && specs.all fun r => h.shapeWord r == .u then [h.active.lowest h.team.e0] else h.lanes

/-- QWRITE: the request carries each lane's slot number and quarter. -/
def execQwrite (y : Bool) (d : BitVec 8) (b k : BitVec 4) (i : BitVec 8) (s : State) : Host.Outcome State Fault Refusal :=
  issueS s fun h =>
    let words := (List.range 4).map (d.toNat + ·)
    let lane (t : Nat) : Nat × List Byte :=
      (t, leBytes 4 (h.read i.toNat t).toNat ++ words.flatMap fun r => leBytes 4 (h.read r t).toNat)
    s.object h y { word := wordOf (.qwrite y d b k i), illop := decide (3 < k.toNat), reads := [(d.toNat, 4), (i.toNat, 1)], act := h.active }
      id (h.descAt b) true .read (.queueStore (some k.toNat)) [] (h.frag.release.filter s.outstanding) ((h.storeLanes (i.toNat :: words)).map lane) fun _ => .none

/-- QPOST: a release, which holds the RDY writes, then RDY in the slot of each lane. -/
def execQpost (y : Bool) (b : BitVec 4) (i : BitVec 8) (s : State) : Host.Outcome State Fault Refusal :=
  issueS s fun h =>
    s.object h y { word := wordOf (.qpost y b i), reads := [(i.toNat, 1)], act := h.active }
      Here.endRegions (h.descAt b) true .read (.queueStore none) [] (s.openOf h) ((h.storeLanes [i.toNat]).map fun t => (t, leBytes 4 (h.read i.toNat t).toNat)) fun _ => .none

/-! ### Rings (R317 to R319) -/

/-- The shared course of both forms of AWAITF. -/
def State.awaitOp (s : State) (h : Here) (y : Bool) (w : Word) (o : ObjectAt) (i : BitVec 8) : State :=
  s.object h y { word := w, reads := [(i.toNat, 1)], act := h.active, poison := h.oncePoison [(i.toNat, 1)] }
    Here.endRegions o false .read (.await (h.first i)) [] [] [(h.active.lowest h.team.e0, [])] .awaitf

/-- AWAITF on a ring in memory. -/
def execAwaitf (y : Bool) (b : BitVec 4) (i : BitVec 8) (s : State) : Host.Outcome State Fault Refusal :=
  issueS s fun h => s.awaitOp h y (wordOf (.awaitf y b i)) (h.ringAt b) i
/-- AWAITF on a ring at offset 0 of a window. -/
def execAwaitfWindow (y : Bool) (b : BitVec 4) (i : BitVec 8) (s : State) : Host.Outcome State Fault Refusal :=
  issueS s fun h => s.awaitOp h y (wordOf (.awaitfWindow y b i)) (h.windowRingAt b) i

/-- The shared course of both forms of RELSLOT. -/
def State.releaseOp (s : State) (h : Here) (y : Bool) (w : Word) (o : ObjectAt) (i : BitVec 8) : State :=
  s.object h y { word := w, reads := [(i.toNat, 1)], act := h.active, poison := h.oncePoison [(i.toNat, 1)] }
    Here.endRegions o true .write (.release (h.first i)) (s.openOf h) [] [(h.active.lowest h.team.e0, [])] fun _ => .none

/-- RELSLOT on a ring in memory. -/
def execRelslot (y : Bool) (b : BitVec 4) (i : BitVec 8) (s : State) : Host.Outcome State Fault Refusal :=
  issueS s fun h => s.releaseOp h y (wordOf (.relslot y b i)) (h.ringAt b) i
/-- RELSLOT on a ring at offset 0 of a window. -/
def execRelslotWindow (y : Bool) (b : BitVec 4) (i : BitVec 8) (s : State) : Host.Outcome State Fault Refusal :=
  issueS s fun h => s.releaseOp h y (wordOf (.relslotWindow y b i)) (h.windowRingAt b) i

/-- The shared course of both forms of RDPROM. -/
def State.promiseOp (s : State) (h : Here) (y : Bool) (w : Word) (d : BitVec 8) (o : ObjectAt) (i : BitVec 8) : State :=
  let uni := h.oneShape == .u && h.shapeWord i.toNat == .u
  s.object h y { word := w, writes := [(d.toNat, 2)], reads := [(i.toNat, 1)], long := true, act := h.active,
                 grow := if uni || h.team.isCore then [] else growOf .g d.toNat 2 }
    id o false .read .promise [] [] ((if uni then [h.active.lowest h.team.e0] else h.lanes).map fun t => (t, leBytes 4 (h.read i.toNat t).toNat))
    fun _ => .none

/-- RDPROM on a ring in memory. -/
def execRdprom (y : Bool) (d : BitVec 8) (b : BitVec 4) (i : BitVec 8) (s : State) : Host.Outcome State Fault Refusal :=
  issueS s fun h => s.promiseOp h y (wordOf (.rdprom y d b i)) d (h.ringAt b) i
/-- RDPROM on a ring at offset 0 of a window. -/
def execRdpromWindow (y : Bool) (d : BitVec 8) (b : BitVec 4) (i : BitVec 8) (s : State) : Host.Outcome State Fault Refusal :=
  issueS s fun h => s.promiseOp h y (wordOf (.rdpromWindow y d b i)) d (h.windowRingAt b) i

/-! ### Layout handles (R320, R321) -/

/-- SEAL: the record at the address in pair A is read and judged at its home. The condition code it writes is pending, but
may be written while another operation's is (the program of 18 seals twice before it parks; log 8). -/
def execSeal (y : Bool) (d a : BitVec 8) (s : State) : Host.Outcome State Fault Refusal :=
  issueS s fun h =>
    let u : Uses := { word := wordOf (.seal y d a), writes := [(d.toNat, 1)], reads := [(a.toNat, 2)], long := true, ccWrite := h.ccw,
                      act := h.active, grow := growOf h.oneShape d.toNat 1, poison := h.oncePoison [(a.toNat, 2)] }
    match h.check { u with ccWrite := none } with
    | some t => s.put (h.raise u.act t)
    | none =>
      let h := { h with fresh := if h.readsFree u then h.fresh + 4096 else h.fresh }
      if h.active = 0#1024 then s.put { h with frag := h.frag.finish y }
      else
        let lane := h.active.lowest h.team.e0
        let addr := h.readN a.toNat 2 lane
        let o := h.newOut u .memory
        let stop (t : Trap) : State := s.put (let h := h.start o [{ t with dest := o.dst }]; { h with frag := h.frag.finish y })
        if addr % 32 ≠ 0 then stop { cause := cALIGN, addr := addr, detail := 0x80000000#32, rank := 2 }
        else if 2 ^ 48 - 32 < addr then stop { cause := cBOUNDS, addr := addr, detail := 0x80000000#32, rank := 1 }
        else
          let r := s.sendLines { h with frag := { h.frag with lines := none } } o.id h.active true { access := .read, action := .seal }
            [{ lane := lane, addr := addr, len := 32, data := [], at_ := 0 }]
          r.1.put (let h := r.2.1.start o (r.2.2.map fun t => { t with dest := o.dst }); { h with frag := h.frag.finish y })

/-- SEAL, release: performed at the seal table. -/
def execSealRel (y : Bool) (a : BitVec 8) (s : State) : Host.Outcome State Fault Refusal :=
  issueS s fun h =>
    let u : Uses := { word := wordOf (.sealRel y a), reads := [(a.toNat, 1)], act := h.active, poison := h.oncePoison [(a.toNat, 1)] }
    match h.check u with
    | some t => s.put (h.raise u.act t)
    | none =>
      if h.active = 0#1024 then s.put { h with frag := h.frag.finish y }
      else
        let o := h.newOut u .memory
        let q : Req :=
          { id := s.nextReq, root := s.nextReq, later := [], gid := h.group.gid, tid := h.team.tid, op := o.id, vd := h.group.vd, cluster := h.group.cluster,
            action := .sealRelease (h.first a), place := { space := .scratch h.group.gid, addr := 0, keyid := 0, dual := none }, va := 0,
            lanes := [], src := h.source, flow := none, scope := 0, hint := 0, waits := [], once := true, pub := false, check := none, landed := true, via := [] }
        let h := h.start o []
        { s with nextReq := s.nextReq + 1, reqs := s.reqs ++ [q] }.put
          { h with frag := Frag.finish y { h.frag with hist := h.frag.hist.filter s.unsettled ++ [q.id] } }

/-! ### PUBLISH (R322) -/

/-- PUBLISH: a release; the flip waits for the fragment's earlier accesses, the miss of its line among them. -/
def execPublish (y : Bool) (b : BitVec 4) (s : State) : Host.Outcome State Fault Refusal :=
  issueS s fun h =>
    let r := h.bufRecord b.toNat
    let o := h.descAt b
    let u := o.uses { word := wordOf (.publish y b), act := h.active }
    s.checked h u fun h =>
      let waits := s.openOf h
      let h := h.endRegions
      if h.active = 0#1024 then s.put { h with frag := h.frag.finish y }
      else
        let op := h.newOut u .memory
        let stop (t : Trap) : State := s.put (let h := h.start op [t]; { h with frag := h.frag.finish y })
        let va := recBase r
        let send : State :=
          let n := s.nextReq
          let q := s.sendLines { h with frag := { h.frag with lines := none } } op.id h.active true { access := .read, action := .publish }
            [{ lane := h.active.lowest h.team.e0, addr := va, len := 1, data := [], at_ := 0 }]
          (q.1.mapReqs fun (x : Req) => if n ≤ x.id then { x with waits := waits } else x).put
            (let h := q.2.1.start op q.2.2; { h with frag := h.frag.finish y })
        if !o.long then stop (o.trap cBOUNDS 1 (o.buf.detail true))
        else if !recPub r then stop { cause := cPERM, addr := va, detail := 0, rank := 3 }
        else
          match s.lineAnswer h.group.cluster h.group.vd va va .read with
          | .ok p =>
            if p.dual.isNone then stop { cause := cPERM, addr := va, detail := 3, rank := rankPERM }
            else if (s.vd h.group.vd).ceiling < 5 then stop (scopeTrap 5 (s.vd h.group.vd).ceiling va)
            else send
          | _ => send

end Sys2Proof.Machine
end

