-- ==== Sys2Proof/Machine/Survival.lean ====
section
/-!
DEFINITION. Memory survival: spreads, the spare, retirement of units, error counters and advisories 1 to 4 and 6, and what a
read does to a line that fails its code (22 R396 to R413).
-/
namespace Sys2Proof.Machine

/-! ### Units (R400, R406, R407) -/

/-- Raw capacity that a retirement takes from the spare, in lines. -/
def unitCapacity : MemUnit → Nat
  | .bank _ _ _ => 262144
  | .channel _ _ => 16777216
  | .stack _ => 536870912
  | .row _ _ _ _ => 0
/-- The whole spare, and the footprint of a region with its check lines, in lines. -/
def fullSpare : Nat := 536870912
def regionLines : Nat := 2359296

/-- Change every interleave entry; entries that are as they were built are not listed. -/
def State.mapRegions (s : State) (k : Region → Region) : State :=
  let built (n : Nat) : Region := ({ s with sv := { s.sv with regions := [] } } : State).region n
  let all := (List.range 4096).filterMap fun n =>
    let r := k (s.region n)
    if r = built n then none else some r
  { s with sv := { s.sv with regions := all } }

/-- A spread's lines may lie on a unit: it is neither excluded nor lost, and a moored spread has channels on it. -/
def Spread.has (x : Spread) (u : MemUnit) : Bool :=
  !(x.excludes.any (unitIn u)) && !(x.lost.any (unitIn u)) &&
  (x.moored.isEmpty || x.moored.any fun c => unitIn (.channel (c / 32) (c % 32)) u || unitIn u (.channel (c / 32) (c % 32)))

/-- The stack, channel, bank and row that hold a line under a spread. -/
def State.unitsUnder (s : State) (n hpa line : Nat) : List MemUnit :=
  let p := (s.spread n).placeOf (stripeOf hpa) line
  .row (p.1 / 32) (p.1 % 32) p.2 ((Config.bankRowOf (s.spread n).root.num (stripeOf hpa) line).2 % 32768) :: unitsAt p

/-- The spreads that a region's lines lie under: the one in force, and the one being moved to. -/
def Region.spreads (r : Region) : List Nat := r.spread :: (if r.state = .migrating then [r.nspread] else [])

/-- Lines of a region, as stripe and line, of which something holds. -/
def Region.linesWith (r : Region) (p : Nat → Nat → Bool) : List (Nat × Nat) :=
  (List.range 131072).flatMap fun st => ((List.range 18).filter (p (r.num * 2 ^ 28 + 2048 * st))).map fun k => (st, k)

/-- A line of the region lies on a unit. -/
def State.hasLine (s : State) (r : Region) (u : MemUnit) : Bool :=
  decide (r.state ≠ .retired) &&
  r.spreads.any fun n => (s.spread n).has u && !(r.linesWith fun hpa k => (s.unitsUnder n hpa k).contains u).isEmpty

/-- The loss of a unit affects the region (R406): it has lines in the bank, or its spread holds the channel or stack. -/
def State.regionHolds (s : State) (r : Region) (u : MemUnit) : Bool :=
  match u with
  | .channel _ _ | .stack _ => decide (r.state ≠ .retired) && r.spreads.any fun n => (s.spread n).has u
  | _ => s.hasLine r u

/-- A spread as it is wanted, but for its number: one that the Pilot keeps, or a new one under a number that no region uses and that is
not among some others; none where no number is free. -/
def State.spreadLike (s : State) (taken : List Nat) (new : Spread) : Option (State × Nat) :=
  match ((List.range 56).map s.spread).find? fun (x : Spread) => decide (x.seed = new.seed) && decide (x.banks = new.banks) && x.moored.isEmpty &&
      x.lost.isEmpty && (x.excludes.all new.excludes.contains) && new.excludes.all x.excludes.contains with
  | some x => some (s, x.num)
  | none =>
    let used (n : Nat) : Bool := n == 0 || taken.contains n || s.sv.regions.any fun r => r.spread == n || r.nspread == n
    ((List.range 56).find? fun n => !used n).map fun n =>
      ({ s with sv := { s.sv with spreads := { new with num := n } :: s.sv.spreads.filter fun x => x.num != n } }, n)

/-- A spread that leaves out some units, with places of its own; none where the units that are left cannot hold a stripe by R397. -/
def State.spreadWithout (s : State) (out : List MemUnit) (taken : List Nat := []) : Option (State × Nat) :=
  let new : Spread := { num := 0, seed := none, banks := [], excludes := out, lost := [], moored := [] }
  if new.places.length < 18 then none else s.spreadLike taken new

/-- The unit is a bank. -/
def MemUnit.isBank : MemUnit → Bool
  | .bank .. => true
  | _ => false

/-- The spread to which a region goes from one that has lost units: the lines of lost banks go to other channels of their stacks, and the
rest stay; those of channels and stacks are placed anew (R406). -/
def State.spreadAway (s : State) (x : Spread) (lost out : List MemUnit) (taken : List Nat := []) : Option (State × Nat) :=
  if lost.all MemUnit.isBank && x.moored.isEmpty then
    s.spreadLike taken { num := 0, seed := some (x.root.num, x.root.excludes), banks := x.banks ++ lost, excludes := out, lost := [], moored := [] }
  else s.spreadWithout out taken

/-- LOST of an interleave entry (R400): the most lines of one stripe of the region that are unavailable. -/
def State.lostOf (s : State) (r : Region) : Nat :=
  if r.state = .retired ∨ r.spreads.all (fun n => (s.spread n).lost.isEmpty) then 0
  else ((List.range 131072).map fun st => ((List.range 18).filter (s.unitLost (r.num * 2 ^ 28 + 2048 * st))).length).foldl max 0 |> min 2

/-! ### Advisories (R360, R408, R413) -/

/-- A device's range table covers a region. -/
def VDev.covers (v : VDev) (region : Nat) : Bool :=
  v.ranges.any fun e => rangeLen e != 0 && decide (rangeHbase e < 128 * (region + 1)) && decide (128 * region < rangeHbase e + rangeLen e)

/-- Queue an advisory to every launch of some devices. -/
def State.adviseDevices (s : State) (code : Nat) (dest : Nat → Bool) : State :=
  (s.launches.filter fun l => dest l.vd).foldl (fun s l => s.advise l.id code 0) s

/-- The devices that have a region with a line in a unit. -/
def State.unitDevices (s : State) (u : MemUnit) : List Nat :=
  (List.range 64).filter fun vd => !(s.vd vd).ranges.all (fun e => rangeLen e == 0) &&
    (List.range 4096).any fun n => (s.vd vd).covers n && s.hasLine (s.region n) u

/-- Corrected errors of the last hour. -/
def State.hourlyErrors (s : State) : Nat := (s.sv.hourly.filter fun t => decide (s.clock < t + 3600 * 1200000000)).length

/-- The conditions of advisory 4: a region is DEGRADED; the spare is below one stack's worth; the errors of an hour. -/
def State.adv4Now (s : State) : List Bool :=
  [ s.sv.regions.any fun r => decide (r.state = .degraded),
    decide (s.sv.spare < fullSpare),
    decide (bitsOf s.sv.thr2.toNat 0 16 ≤ s.hourlyErrors) ]

/-- Queue advisory 4 to every launch for each condition that has come to hold. -/
def State.checkAdv4 (s : State) : State :=
  let now := s.adv4Now
  let s' := (now.zip s.sv.adv4).foldl (fun s p => if p.1 && !p.2 then s.adviseDevices 4 fun _ => true else s) s
  { s' with sv := { s'.sv with adv4 := now } }

/-- Conditions of advisory 4 that have passed are noted, so that their return raises it again. -/
def State.lapseAdv4 (s : State) : State :=
  { s with sv := { s.sv with adv4 := (s.adv4Now.zip s.sv.adv4).map fun p => p.1 && p.2 } }

/-! ### Retirement (R401, R406) -/

/-- What retiring a unit makes of a region that it affects: it moves to a spread without the unit, or it is DEGRADED where the spare
cannot hold its lines; a move goes on. -/
def Region.lose (r : Region) (target : Option Nat) : Region :=
  match r.state, target with
  | .normal, some t => { r with state := .migrating, nspread := t, nhmap := r.hmap, cursor := 0, during := [] }
  | .normal, none => { r with state := .degraded, short := true }
  | .migrating, none => { r with short := true }
  | _, _ => r

/-- Of regions that lose lines, those whose lines a spare can still hold, in ascending order, and what is left of it (log 115). -/
def State.spareFor (lines : Nat → Nat) (spare : Nat) (regions : List Nat) : List Nat × Nat :=
  regions.foldl (fun (acc : List Nat × Nat) n => if lines n ≤ acc.2 then (acc.1 ++ [n], acc.2 - lines n) else acc) ([], spare)

/-- A unit is out of service already. -/
def State.isRetired (s : State) (u : MemUnit) : Bool := s.sv.retired.any (unitIn u)

/-- Retire a unit: its lines are lost where they lie, what has been rebuilt there among them, and its regions begin to move, or degrade
where the spare is short. RESULT is 0 or 3. -/
def State.retireUnit (s : State) (u : MemUnit) : State × Nat :=
  let short := decide (s.sv.spare < unitCapacity u)
  let hits := (List.range 4096).filter fun n => s.regionHolds (s.region n) u
  let on (n : Nat) : Nat := let r := s.region n; (r.linesWith fun hpa k => (s.unitsUnder (r.spreadOf (stripeIn hpa)) hpa k).contains u).length
  let fits := if short then State.spareFor on s.sv.spare hits else (hits, s.sv.spare - unitCapacity u)
  let out := s.sv.retired.filter (fun e => !unitIn e u) ++ [u]
  let from_ := ((fits.1.filter fun n => decide ((s.region n).state = .normal)).map fun n => (s.region n).spread).eraseDups
  let q := from_.foldl (fun (acc : State × List (Nat × Nat)) n =>
    match acc.1.spreadAway (acc.1.spread n) [u] out (acc.2.map (·.2)) with
    | some p => (p.1, (n, p.2) :: acc.2)
    | none => acc) (s, [])
  let s' := q.1
  let kept := (0 :: s'.sv.spreads.map (·.num)).eraseDups.map s'.spread
  let rebuilt := s.sv.rebuilt.filter fun n => !(s.unitsUnder (s.region (regionOf (n / 18 * 2048))).nspread (n / 18 * 2048) (n % 18)).contains u
  let s := s'.mapRegions fun r =>
    if !hits.contains r.num then r
    else
      let target := (q.2.find? fun p => p.1 == r.spread).map (·.2)
      let r := if r.state = .migrating ∧ (s.spread r.nspread).has u then { r with during := r.during ++ [u] } else r
      if !fits.1.contains r.num then r.lose none
      else if r.state = .normal then r.lose target
      else r
  let s := { s with sv := { s.sv with
      retired := s.sv.retired ++ [u], rebuilt := rebuilt, spare := fits.2
      spreads := kept.map fun (x : Spread) => if x.has u then { x with lost := x.lost ++ [u] } else x } }
  let s := match u with
    | .stack _ => if short then s else s.adviseDevices 6 fun vd => hits.any (s.vd vd).covers
    | _ => s
  (s.checkAdv4, if short then 3 else 0)

/-- Spare has come back: regions that were left without are rebuilt, in ascending order, while it holds their lines (R23, R406). -/
def State.rebuildShort (s : State) : State :=
  let ns := sortBy (fun a b => decide (a ≤ b)) ((s.sv.regions.filter (·.short)).map (·.num))
  ns.foldl (fun s n =>
    let r := s.region n
    let lost := (r.linesWith fun hpa k => if r.state = .migrating then s.lostUnder r.nspread hpa k else s.unitLost hpa k).length
    if s.sv.spare < lost then s
    else
      let took (s : State) : State := { s with sv := { s.sv with spare := s.sv.spare - lost } }
      match r.state with
      | .migrating => took (s.setRegion { r with short := false })
      | .degraded =>
        match s.spreadAway (s.spread r.spread) (s.spread r.spread).lost s.sv.retired with
        | some q => took (q.1.setRegion { r with state := .migrating, nspread := q.2, nhmap := r.hmap, cursor := 0, short := false, during := [] })
        | none => s
      | _ => s) s

/-- Retire a unit that is still in service. -/
def State.failUnit (s : State) (u : MemUnit) : State := if s.isRetired u then s else (s.retireUnit u).1

/-! ### Error counters (R408) -/

/-- Add n to a counter; crossing its threshold acts and advises. -/
def State.bump (s : State) (u : MemUnit) (n thr code : Nat) (act : State → State) : State :=
  let old := assocGet s.sv.counters u 0
  let s := { s with sv := { s.sv with counters := assocSet s.sv.counters u (old + n) } }
  if old < thr ∧ thr ≤ old + n then
    let dest := s.unitDevices u
    (act s).adviseDevices code dest.contains
  else s

/-- The actions of POLICY. -/
def State.policy (s : State) : Nat := bitsOf s.sv.thr1.toNat 24 2
def rowThr (s : State) : Nat := bitsOf s.sv.thr0.toNat 0 16

/-- The row, bank and channel of a line of a stripe. -/
def State.placeUnits (s : State) (hpa line : Nat) : MemUnit × MemUnit × MemUnit :=
  let n := (s.region (regionOf hpa)).spreadOf (stripeIn hpa)
  let p := (s.spread n).placeOf (stripeOf hpa) line
  (.row (p.1 / 32) (p.1 % 32) p.2 ((Config.bankRowOf (s.spread n).root.num (stripeOf hpa) line).2 % 32768), .bank (p.1 / 32) (p.1 % 32) p.2,
    .channel (p.1 / 32) (p.1 % 32))

/-- A corrected error of a line is counted for its bank, its channel and the hour. -/
def State.countWide (s : State) (hpa line : Nat) : State :=
  let (_, bank, channel) := s.placeUnits hpa line
  let s := s.lapseAdv4
  let s := s.bump bank 1 (bitsOf s.sv.thr0.toNat 16 16) 2 fun s => if s.policy = 2 then s.failUnit bank else s
  let s := s.bump channel 1 (bitsOf s.sv.thr1.toNat 0 16) 3 fun s => if s.policy = 2 then s.failUnit channel else s
  ({ s with sv := { s.sv with hourly := s.clock :: s.sv.hourly.filter fun t => decide (s.clock < t + 3600 * 1200000000) } } : State).checkAdv4

/-- The lines of a stripe that a line of it is rebuilt from: 16 that can be read (R399; of 17, the model takes the first, log 147). -/
def State.sources16 (s : State) (hpa line : Nat) : List Nat := ((List.range 18).filter fun k => k != line && !s.lineLost hpa k).take 16

/-- A line at its place has one bad symbol. -/
def State.oneSymbol (s : State) (hpa line : Nat) : Bool := (s.sv.weak.any fun w => w.1 == lineNo hpa line && !w.2) && !s.unitLost hpa line

/-- Repair a row in place: its lines are read, corrected or rebuilt where they can be, and poisoned where they cannot, and written back. The
deltas of their stripes are awaited first, which is done in this one step. The row's errors are gone, and those corrected, in the lines
that a rebuilding reads too, count for their bank and channel (R396, R398, R399, R406; log 131). -/
def State.repairRowNow (s : State) (u : MemUnit) : State :=
  let mine := s.sv.weak.filter fun w => decide ((s.placeUnits (w.1 / 18 * 2048) (w.1 % 18)).1 = u) && !s.unitLost (w.1 / 18 * 2048) (w.1 % 18)
  let stripes := (mine.map (·.1 / 18)).eraseDups
  let s : State := { s with sv := { s.sv with deltas := s.sv.deltas.filter fun d => !stripes.contains d.stripe } }
  let s := mine.foldl (fun s w =>
    let hpa := w.1 / 18 * 2048
    let k := w.1 % 18
    if !w.2 then (s.wholeLine hpa k).countWide hpa k
    else if !s.unrecoverable hpa && !s.sv.stale.contains (w.1 / 18) then
      (((s.sources16 hpa k).filter (s.oneSymbol hpa)).foldl (fun s j => (s.wholeLine hpa j).countWide hpa j) s).wholeLine hpa k
    else if 16 ≤ k then s
    else
      let addr := hpa + 128 * k
      let s := if s.lineUnread hpa k then s.poisonUnread addr else s
      { s with sv := { s.sv with weak := s.sv.weak.filter fun x => x != w, unreliable := (w.1 / 18 :: s.sv.unreliable).eraseDups } }) s
  { s with sv := { s.sv with counters := assocDel s.sv.counters u } }

/-- The row counter of a line. -/
def State.bumpRow (s : State) (hpa line n : Nat) : State :=
  let u := (s.placeUnits hpa line).1
  s.bump u n (rowThr s) 1 fun s => if s.policy = 0 then s else s.repairRowNow u

/-- Count a corrected error of a line. -/
def State.countCorrected (s : State) (hpa line : Nat) : State := (s.countWide hpa line).bumpRow hpa line 1

/-! ### The stripe code (R397, R398) -/

/-- The product of a byte with 2 in GF(2^8), with field polynomial 0x11D. -/
def gfDouble (b : Byte) : Byte := (b <<< 1) ^^^ (if b.getLsbD 7 then 0x1D#8 else 0#8)

/-- The weight of data line i in a check line: 1 in P, g^i in Q. -/
def gfWeight (q : Bool) (i : Nat) (b : Byte) : Byte := if q then Nat.repeat gfDouble i b else b

/-- The 128 bytes of a line as HBM stores them: encrypted under the key it was stored with, or zeros (R396). -/
def Stored.bytes (x : Stored) (addr : Nat) : List Byte :=
  match x.key with
  | none => List.replicate 128 0#8
  | some (id, gen) =>
    leBytes 128 (Config.xts id gen addr (BitVec.ofNat 1024 (leValue (Memory.read x.cells addr 128)))).toNat

/-- The delta of a write-back, old xor new. -/
def Delta.value (d : Delta) : List Byte :=
  let addr := d.stripe * 2048 + 128 * d.line
  List.zipWith (· ^^^ ·) (d.old.bytes addr) (d.new.bytes addr)

/-- A check line of a stripe as it stands: the sum over the data lines as HBM stores them, less the deltas that its home has not
applied. -/
def State.checkLine (s : State) (stripe : Nat) (q : Bool) : List Byte :=
  let add (acc x : List Byte) : List Byte := List.zipWith (· ^^^ ·) acc x
  let data := (List.range 16).map fun i =>
    let addr := stripe * 2048 + 128 * i
    ((s.storedLine .device addr).bytes addr).map (gfWeight q i)
  let open_ := (s.sv.deltas.filter fun d => d.stripe == stripe && d.waits.contains (if q then 17 else 16)).map fun d =>
    d.value.map (gfWeight q d.line)
  (data ++ open_).foldl add (List.replicate 128 0#8)

/-! ### What a read does to a line that fails (R396, R399) -/

/-- A line of a stripe that has one bad symbol is corrected as it is read, and counted (R396). -/
def State.correct (s : State) (hpa line : Nat) : State := if s.oneSymbol hpa line then (s.wholeLine hpa line).countCorrected hpa line else s

/-- A line of a stripe is read from its place: one bad symbol is corrected and counted; a line that cannot be read is rebuilt from others,
which are read too, and written back, or poisoned where its slice does not hold it. -/
def State.readStored (s : State) (hpa line : Nat) : State :=
  let n := lineNo hpa line
  let addr := hpa / 2048 * 2048 + 128 * line
  if s.unhurt || decide ((s.region (regionOf hpa)).state = .retired) then s
  else if s.oneSymbol hpa line then s.correct hpa line
  else if s.lineLost hpa line && !(decide (line < 16) && s.clearPending addr) then
    let bad := s.sv.weak.any fun w => w.1 == n && w.2
    let s' := if !s.unrecoverable hpa then ((s.sources16 hpa line).foldl (fun s k => s.correct hpa k) s).wholeLine hpa line
      else if line < 16 ∧ s.lineUnread hpa line then s.poisonUnread addr else s
    if bad then s'.bumpRow hpa line (rowThr s) else s'
  else s

/-- A line of a stripe is read at its home, which reads no place of a line that it holds dirty. -/
def State.healLine (s : State) (hpa line : Nat) : State :=
  if line < 16 ∧ s.dirty.any (fun d => decide (d.space = .device) && d.addr == hpa / 2048 * 2048 + 128 * line) then s else s.readStored hpa line

/-- A line of a place is read at its home. -/
def State.heal (s : State) (p : Place) : State :=
  match p.space with
  | .device => s.healLine p.addr (lineIn p.addr)
  | _ => s

end Sys2Proof.Machine
end

