-- ==== Sys2Proof/Machine/LineRequest.lean ====
section
/-!
DEFINITION. LINE_REQUEST: what a request does at its line's home slice or bank, as one step (05 R125, R126, R131, R133,
R134; 06 R137, R138, R152 to R155; 15 R305 to R322; 16 R338, R341).
-/
namespace Sys2Proof.Machine

/-! ### When a request may be performed -/

/-- Request `q` stands before `r` in program order: of an earlier access, or of the same one with a lower number. -/
def Req.before (q r : Req) : Bool := decide (q.root < r.root) || (q.root == r.root && decide (q.id < r.id))

/-- Requests that are held for a page request. -/
def State.heldReqs (s : State) : List Req :=
  s.vds.flatMap fun v => v.pageReqs.flatMap fun p => p.waiters.filterMap fun w =>
    match w with | .line q _ => some q | _ => none

/-- Two requests come from one source: a quadrant or context, or a team that has moved to another since (R137, R145). -/
def Req.sameSource (q r : Req) : Bool := q.src == r.src || (q.gid == r.gid && q.tid == r.tid)

/-- Two requests of one device reach one line by virtual address, or one word of a scratchpad. -/
def Req.sameVa (q r : Req) : Bool :=
  match q.place.space, r.place.space with
  | .scratch g, .scratch h => g == h && q.place.addr == r.place.addr
  | .scratch _, _ => false
  | _, .scratch _ => false
  | _, _ => q.vd == r.vd && q.va / 128 == r.va / 128

/-- Two requests in flight reach one line, under one virtual address or two, or one word of a scratchpad. -/
def Req.sameLine (q r : Req) : Bool :=
  q.sameVa r || (!q.place.inScratch && decide (q.place.space = r.place.space) && q.place.addr == r.place.addr)

/-- Where the object of a request lies: in a window, or at its virtual address. -/
def Req.object (r : Req) : RingSlot :=
  match r.place.space with
  | .scratch gid => { vd := r.vd, window := some (gid, r.va), addr := 0, slot := 0 }
  | _ => { vd := r.vd, window := none, addr := r.va, slot := 0 }

/-- The words of its group's scratchpad that a request reaches, as first and last of each range: an object whole, and the statuses
that RDPROM reads (R313, R319). -/
def State.spadWords (s : State) (q : Req) : List (Nat × Nat) :=
  let span (a n : Nat) : Nat × Nat := (a / 4, (a + max n 1 - 1) / 4)
  match q.place.space with
  | .scratch _ =>
    (q.lanes.map fun la => span (q.place.addr + la.off) la.len) ++
    (match q.action, s.ring q.object with
      | .promise, .ok g => q.lanes.map fun la => span (q.place.addr + g.statusAt (leValue (la.data.take 4))) 5
      | _, _ => [])
  | _ => []

/-- Two requests reach one word of one scratchpad. -/
def State.sameWord (s : State) (q r : Req) : Bool :=
  q.place.inScratch && decide (q.place.space = r.place.space) &&
  (s.spadWords q).any fun a => (s.spadWords r).any fun b => decide (a.1 ≤ b.2) && decide (b.1 ≤ a.2)

/-- The lines that a virtual address stands for: by a walk, and by a cached translation. -/
def State.linesAt (s : State) (c vd va : Nat) : List (Space × Nat) :=
  ([s.walk vd va .read, s.walk vd va .write] ++ s.cachedWalks c vd va .read ++ s.cachedWalks c vd va .write).filterMap fun w =>
    match w with | .ok p _ _ => some (p.space, p.addr) | _ => none

/-- A virtual line is the line of a request, under its own virtual address or another. -/
def State.isLineOf (s : State) (r : Req) (line : Nat) : Bool :=
  line == r.va / 128 || (s.linesAt r.cluster r.vd (line * 128)).contains (r.place.space, r.place.addr)

/-- Two requests of one instruction with one effect on one line, under one virtual address or two. -/
def Req.mate (q r : Req) : Bool :=
  q.gid == r.gid && q.tid == r.tid && q.op == r.op && q.sameLine r && decide (q.action = r.action)

/-- The requests of an instruction to one line, for each pass and each virtual address, in their order: they are performed as one
access (R125, R126). -/
def State.together (s : State) (r : Req) : List Req := sortBy (fun a b => decide (a.id ≤ b.id)) (s.reqs.filter fun q => q.mate r)

/-- The virtual lines that the second part of an access reaches whose request still reads its object (R315, R316, R319). -/
def State.secondLines (s : State) (q : Req) : List Nat :=
  let slot (la : LaneAccess) : Nat := leValue (la.data.take 4)
  match q.action with
  | .queueStore quarter =>
    match s.desc q.vd q.va with
    | .ok d => q.lanes.map fun la => (d.slotAt (slot la) + 16 * quarter.getD 0) / 128
    | .error _ => []
  | .promise =>
    if q.place.inScratch then []
    else
      match (s.valueVa q.vd q.va 32).toOption.map fun v => Ring.ofBytes (leBytes 32 v) with
      | some g => q.lanes.map fun la => g.statusAt (slot la) / 128
      | none => []
  | _ => []

/-- The bytes that a command of the matrix unit reaches: virtual addresses, or offsets in its group's scratchpad. -/
def Cmd.reach (c : Cmd) : Bool × List (Nat × Nat) :=
  let cells (b : Buf) (e n : Nat) : List (Nat × Nat) :=
    (List.range n).filterMap fun k => match b.addr (e + k) with | .ok a => some (a, 2 ^ b.log2) | .error _ => none
  match c.what with
  | .drain _ raw w e _ _ _ _ => (true, cells w.buf e (if raw then 2048 else 1024))
  | .save _ t bw e | .load _ t bw e _ =>
    match t with
    | .record r => (false, cells (recordBuf bw r) e 1024)
    | .window w => (true, cells w.buf e 1024)
  | _ => (true, [])

/-- A command and a request of its context reach one line, or one word of the scratchpad, or are of one ordered flow. -/
def Cmd.meets (c : Cmd) (s : State) (r : Req) : Bool :=
  (c.flow.isSome && r.flow == c.flow) ||
  (let x := c.reach
   if r.place.inScratch then
     x.1 && x.2.any fun q => (s.spadWords r).any fun w => decide (q.1 / 4 ≤ w.2) && decide (w.1 ≤ (q.1 + q.2 - 1) / 4)
   else
     let more := s.secondLines r
     let places := more.flatMap fun l => s.linesAt r.cluster r.vd (l * 128)
     !x.1 && ((x.2.map fun q => q.1 / 128).eraseDups).any fun l =>
       s.isLineOf r l || more.contains l || (!places.isEmpty && (s.linesAt r.cluster r.vd (l * 128)).any places.contains))

/-- Requests of the context that stand before a command and reach what it reaches (R137, R145, R188). -/
def State.beforeCmd (s : State) (g : Group) (c : Cmd) : Bool :=
  c.action.isSome && (s.reqs ++ s.heldReqs).any fun q =>
    q.gid == g.gid && q.tid == coreTid && decide (q.root < c.acc) && c.meets s q

/-- The addresses of the race entries that a request's check reads and writes in memory (R153). -/
def Req.entryLines (r : Req) : List Nat :=
  match r.check, r.place.inScratch with
  | some c, false => ((r.lanes.map fun la => (r.va / 128 * 128 + la.off - c.base) / 512).eraseDups).map fun g => c.table + 32 * g
  | _, _ => []

/-- No line that a request's walk, or its race check, reads waits at its home (R388, R402, R403). -/
def State.sideFree (s : State) (r : Req) : Bool :=
  s.homesFree || r.place.inScratch || (!((s.walkLines r.vd r.va).any s.lineBlocked) && s.linesFree r.vd r.entryLines)

/-- A request may be performed, with the others of its instruction to its line: they have been delivered, what they wait for is
performed, and so are the requests of its source to its line and of its flow before the first of them, and the commands of its
context that reach it (R137, R144, R145, R146, R188). -/
def State.reqReady (s : State) (r : Req) : Bool :=
  let rs := s.together r
  let first := rs.headD r
  let flow (q : Req) : Bool :=
    (r.flow.isSome && q.flow == r.flow) || s.sameWord q r || (!r.place.inScratch && (s.secondLines q).any (s.isLineOf r))
  (rs.all fun q => q.landed && q.waits.all fun id => !s.outstanding id) && !s.lineBlocked (s.served r.vd r.place false) && rs.all s.sideFree &&
  (s.reqs.all fun q => !q.sameSource r || !q.before first || !(q.sameLine r || flow q)) &&
  (s.heldReqs.all fun q => !q.sameSource r || !q.before first || !(s.isLineOf r (q.va / 128) || flow q)) &&
  (r.tid != coreTid || s.groups.all fun g => g.gid != r.gid || g.munit.queue.all fun c =>
    !c.action.isSome || decide (r.root ≤ c.acc) || !c.meets s r)

/-! ### Race checks (R152 to R155) -/

/-- A stamp is active: a live fragment of the slot holds the sequence, and the epoch is at most one behind. A handler's
fragment goes on in the region of the one it interrupts. -/
def State.stampActive (s : State) (slot seq epoch : Nat) : Bool :=
  decide (s.epoch ≤ epoch + 1) &&
  s.groups.any fun g => g.phase.placed && g.allTeams.any fun t => g.slotOf t == slot && t.frags.any fun f => f.seq == seq

/-- The words of a granule that a lane's part of a request touches: granule and word numbers counted from `base`. -/
def raceWords (base addr len : Nat) : List (Nat × Nat) :=
  let lo := (addr - base) / 4
  (List.range ((addr + len - 1 - base) / 4 + 1 - lo)).map fun k => ((lo + k) / 128, (lo + k) % 128)

/-- The entry with bits EPOCH, MASK, SLOT, SEQ and KIND. -/
def raceEntry (epoch mask slot seq kind : Nat) : List Byte :=
  leBytes 32 (epoch * 2 ^ 192 + mask * 2 ^ 64 + slot * 2 ^ 48 + seq * 2 ^ 28 + kind * 2 ^ 26)

/-- Read and write the entry of a granule. -/
def State.entryRead (s : State) (r : Req) (at_ : Nat) : Option Nat :=
  match r.place.space with
  | .scratch gid => (s.group? gid).map fun g => Memory.value g.mem at_ 32
  | _ => (s.valueVa r.vd at_ 32).toOption
def State.entryWrite (s : State) (r : Req) (at_ : Nat) (bs : List Byte) : State :=
  match r.place.space with
  | .scratch gid => s.modGroup gid fun g => g.store at_ bs
  | _ => match s.writeVa r.vd at_ bs with | .ok s => s | .error _ => s

/-- The address from which a lane's granules are counted. -/
def Req.laneAddr (r : Req) (la : LaneAccess) : Nat :=
  match r.place.space with | .scratch _ => r.place.addr + la.off | _ => r.va / 128 * 128 + la.off

/-- check of R155 over the request: the lanes that race, and the stamp that the first of them meets. Words of lanes that
do not race are recorded (log 46); a granule whose entry cannot be read, for poison or a failed translation, is not compared
(log 91). -/
def State.raceCheck (s : State) (r : Req) (write atomic : Bool) : State × List Nat × Word :=
  match r.check with
  | none => (s, [], 0#32)
  | some c =>
    let words (la : LaneAccess) := raceWords c.base (r.laneAddr la) la.len
    let grans := ((r.lanes.flatMap words).map (·.1)).eraseDups
    grans.foldl (fun (acc : State × List Nat × Word) g =>
      let (s, lanes, stamp) := acc
      match s.entryRead r (c.table + 32 * g) with
      | none => acc
      | some e =>
        let kind := bitsOf e 26 2
        let slot := bitsOf e 48 16
        let seq := bitsOf e 28 20
        let mask := bitsOf e 64 128
        let used := kind == 1 || kind == 2
        let own := slot == c.slot && seq == c.seq
        let hot := used && !own && (kind == 2 || write) && s.stampActive slot seq (bitsOf e 192 64)
        let racing := if hot then (r.lanes.filter fun la => (words la).any fun w => w.1 == g && bitOf mask w.2).map (·.lane) else []
        let rest := r.lanes.filter fun la => !racing.contains la.lane
        let m := ((rest.flatMap words).filter fun w => w.1 == g).foldl (fun m w => m ||| 2 ^ w.2) 0
        let k := if write then 2 else 1
        let s := if atomic || m == 0 then s
          else if own && used then s.entryWrite r (c.table + 32 * g) (raceEntry (bitsOf e 192 64) (mask ||| m) slot seq (max kind k))
          else s.entryWrite r (c.table + 32 * g) (raceEntry s.epoch m c.slot c.seq k)
        (s, (lanes ++ racing).eraseDups, if lanes.isEmpty && !racing.isEmpty then BitVec.ofNat 32 (slot * 65536 + seq % 65536) else stamp))
      (s, [], 0#32)

/-- The race check with its trap: the state, and the lanes that are performed. -/
def State.raced (s : State) (r : Req) (write atomic : Bool) : State × List LaneAccess :=
  let (s, lanes, stamp) := s.raceCheck r write atomic
  let rest := r.lanes.filter fun la => !lanes.contains la.lane
  match r.lanes.find? fun la => lanes.contains la.lane with
  | none => (s, rest)
  | some la => (s.faultReq r lanes { cause := cRACE, addr := r.laneAddr la, detail := stamp, rank := rankRACE }, rest)

/-! ### Results -/

/-- Add a lane's value and its words to an operation's result. -/
def Out.addData (o : Out) (lane v words : Nat) : Out :=
  { o with data := assocSet o.data lane (assocGet o.data lane 0 + v), part := assocSet o.part lane (assocGet o.part lane 0 ||| words) }

/-- The lanes that a lane's result goes to: every active lane when the instruction acts once and its result is not U. -/
def Out.targets (o : Out) (e0 : Nat) (once : Bool) (lane : Nat) : List Nat :=
  if once && !o.uni then o.lanes.lanes e0 else [lane]

def State.setResult (s : State) (r : Req) (lane v words : Nat) : State :=
  s.modTeam r.gid r.tid fun t => t.modOut r.op fun o =>
    (o.targets t.e0 r.once lane).foldl (fun o k => o.addData k v words) o

/-- Destination words that a poisoned line leaves poisoned. -/
def State.setBad (s : State) (r : Req) (lane words : Nat) : State :=
  s.modTeam r.gid r.tid fun t => t.modOut r.op fun o =>
    { o with bad := (o.targets t.e0 r.once lane).foldl (fun l k => assocSet l k (assocGet l k 0 ||| words)) o.bad }

/-- The flags of a condition code for every active lane. -/
def State.setCc (s : State) (r : Req) (f : Flags) : State :=
  s.modTeam r.gid r.tid fun t => t.modOut r.op fun o => { o with ccData := (o.lanes.lanes t.e0).map fun k => (k, f) }

def State.orFp (s : State) (r : Req) (fl : FFlags) : State :=
  s.modTeam r.gid r.tid fun t => t.modOut r.op fun o => { o with fp := o.fp ||| BitVec.ofNat 32 (fl.toNat * 16) }

/-- The words of a result that bytes [at, at + len) belong to. -/
def wordsOf (at_ len : Nat) : Nat := (List.range ((at_ + max len 1 + 3) / 4 - at_ / 4)).foldl (fun m k => m ||| 2 ^ (at_ / 4 + k)) 0

/-- A loaded element as it goes into the result (R123). -/
def extended (signed : Bool) (at_ : Nat) (bs : List Byte) : Nat :=
  let v := leValue bs
  let n := 8 * bs.length
  (if signed && decide (n < 32) && bitOf v (n - 1) then v + (2 ^ 32 - 2 ^ n) else v) * 2 ^ (8 * at_)

/-! ### Poison at the access (R133, R134) -/

/-- The address that UE reports for a lane: the virtual address, or window number and element index (R354). -/
def State.ueAddr (s : State) (r : Req) (la : LaneAccess) : Nat :=
  match r.place.space with
  | .scratch gid =>
    let w := ((s.outOf r).map fun o => bitsOf o.word.toNat 12 4).getD 0
    match (s.group? gid).bind fun g => g.window? w with
    | some x => w + 2 ^ 32 * ((r.place.addr + la.off - x.offset) / 2 ^ x.log2sz)
    | none => w
  | _ => r.va + la.off

/-- The syndrome of a request's place, or of the poisoned scratchpad word. -/
def State.reqSyndrome (s : State) (p : Place) : Option Word :=
  match p.space with
  | .scratch gid => (s.group? gid).bind fun g => g.poisonIn p.addr 4
  | _ => s.readSyndrome p

/-- Lanes of a request trap UE. -/
def State.ue (s : State) (r : Req) (las : List LaneAccess) (addr : Nat) (syn : Word) : State :=
  s.faultReq r (las.map (·.lane)) { cause := cUE, addr := addr, detail := syn, rank := rankUE }

/-! ### Tags (R138) -/

/-- Write bytes at a place, as one write request or atomic step, with the tag of its line, or of the block of the first word written;
`whole`: one request covers the line. -/
def State.storeAt (s : State) (vd : Nat) (p : Place) (ws : List (Nat × List Byte)) (whole : Bool := coversLine ws) : State × Nat :=
  match p.space with
  | .scratch gid =>
    (s.modGroup gid fun g => g.storeAll (ws.map fun w => (p.addr + w.1, w.2))).scratchTag gid (p.addr + (ws.head?.map (·.1)).getD 0)
  | sp =>
    let r := (s.writeLine vd p ws whole).nextTags sp p.addr 1
    (r.1, r.2)

/-- Bytes at a place. -/
def State.bytesAt (s : State) (p : Place) (off n : Nat) : List Byte :=
  match p.space with
  | .scratch gid => ((s.group? gid).map fun g => Memory.read g.mem (p.addr + off) n).getD []
  | _ => s.lineBytes p off n

/-! ### Loads, stores, atomics (R305 to R310) -/

/-- The bytes of a line that a load under HINT 1 finds in its cluster's read-only cache, where the tape of choices lets
it hit (R131; log 20): one choice for all the requests of an instruction to the line (R126). -/
def State.roHit (s : State) (r : Req) (p : Place) : Option (List Byte) :=
  if r.hint = 1 ∧ s.oracle.headD 0 = 0 then
    (s.roc.find? fun c => c.cluster == r.cluster && decide (c.place = p)).map (·.bytes)
  else none

/-- A load under HINT 1 brings its line into the read-only cache. -/
def State.roFill (s : State) (r : Req) (p : Place) : State :=
  if r.hint = 1 ∧ p.space ≠ .scratch r.gid then
    { s.dropRo r.cluster p with roc := { cluster := r.cluster, place := p, bytes := s.lineBytes p 0 128 } :: (s.dropRo r.cluster p).roc }
  else s

/-- A line that a read brings into L2 takes its slice's tag floor (R138); not under HINT 3 (R130). -/
def State.allocate (s : State) (r : Req) (p : Place) : State :=
  if r.hint = 3 then s else s.allocLine r.vd p

/-- A load. -/
def State.performRead (s : State) (r : Req) (p : Place) (signed : Bool) : State :=
  let hit := s.roHit r p
  let put (s : State) (las : List LaneAccess) (bytes : LaneAccess → List Byte) : State :=
    las.foldl (fun s la => s.setResult r la.lane (extended signed la.at_ (bytes la)) (wordsOf la.at_ la.len)) s
  match hit with
  | some bs =>
    let (s, las) := s.raced r false false
    put s las fun la => (bs.drop la.off).take la.len
  | none =>
    match s.reqSyndrome p with
    | some syn =>
      let s := s.ue r r.lanes ((r.lanes.head?.map (s.ueAddr r)).getD 0) syn
      r.lanes.foldl (fun s la => s.setBad r la.lane (wordsOf la.at_ la.len)) s
    | none =>
      let (s, las) := s.raced r false false
      let s := put s las fun la => s.bytesAt p la.off la.len
      (s.roFill r p).allocate r p

/-- The home slice caches a line: it keeps a tag for it. -/
def State.isCached (s : State) (p : Place) : Bool := s.cached.any fun c => c.isAt p.space p.addr

/-- The hint of a store at its line: HINT 1 drops the line from the writing cluster's read-only cache; HINT 3 writes the line
through, and allocates none (R130). -/
def State.storeHint (s : State) (r : Req) (p : Place) (cached : Bool) : State :=
  if p.inScratch then s
  else if r.hint = 1 then s.dropRo r.cluster p
  else if r.hint = 3 then
    let s := s.writeBackLine p.space p.addr
    if cached then s else s.uncache p.space p.addr
  else s

/-- The bytes that lanes of a store write in its line. -/
def laneWrites (las : List LaneAccess) : List (Nat × List Byte) := las.map fun la => (la.off, la.data)

/-- A store, of all the requests of an instruction to its line: of lanes that write one byte, the highest stands (R126); each
request takes a tag (R138), and one of them that covers the line clears its poison (R133). -/
def State.performWrite (s : State) (rs : List Req) (r : Req) (p : Place) : State :=
  let x := rs.foldl (fun (acc : State × List (List LaneAccess)) q =>
    let y := acc.1.raced q true false
    (y.1, if y.2.isEmpty then acc.2 else acc.2 ++ [y.2])) (s, [])
  if x.2.isEmpty then x.1
  else
    let las := sortBy (fun a b => decide (a.lane ≤ b.lane)) x.2.flatten
    let s := (x.1.storeAt r.vd p (laneWrites las) (x.2.any fun l => coversLine (laneWrites l))).1
    let s : State := match p.space with
      | .scratch gid => (List.range (x.2.length - 1)).foldl (fun (s : State) _ => (s.scratchTag gid p.addr).1) s
      | sp => if x.2.length = 1 then s else (s.nextTags sp p.addr (x.2.length - 1)).1
    s.storeHint r p (x.1.isCached p)

/-- The new value of an atomic, with the float flags of FADD (R307). -/
def atomicNew (k type rnd : Nat) (ftz : Bool) (old opd exp : Nat) : Nat × FFlags :=
  let lt (a b : Nat) : Bool := if type = 0 then decide (intOf true 32 a < intOf true 32 b) else decide (a < b)
  match k with
  | 0 => ((old + opd) % 2 ^ 32, 0#5)
  | 1 => (if lt opd old then opd else old, 0#5)
  | 2 => (if lt old opd then opd else old, 0#5)
  | 3 => (old &&& opd, 0#5)
  | 4 => (old ||| opd, 0#5)
  | 5 => (old ^^^ opd, 0#5)
  | 6 => (opd, 0#5)
  | 7 => (if old = exp then opd else old, 0#5)
  | 8 => (if opd ≤ old then 0 else old + 1, 0#5)
  | 9 => (if old = 0 ∨ opd < old then opd else old - 1, 0#5)
  | _ =>
    let num (v : Nat) := flushInput fp32 ftz (decodeNum fp32 v)
    let r := addNum rnd (num old) (num opd)
    let q := round r.1 fp32 rnd false ftz
    (q.1, q.2 ||| r.2)

/-- The steps of an atomic, lane by lane in ascending order, at each of which a launch may be met that waits on the word (R368); none under a scope above the device's ceiling (R142). -/
def State.performAtomic (s : State) (r : Req) (p : Place) (k type rnd : Nat) (ftz : Bool) : State :=
  match s.reqSyndrome p with
  | some syn =>
    let s := s.ue r r.lanes ((r.lanes.head?.map (s.ueAddr r)).getD 0) syn
    r.lanes.foldl (fun s la => s.setBad r la.lane 3) s
  | none =>
    let (s, las) := s.raced r true true
    let ceiling := (s.vd r.vd).ceiling
    if ceiling < r.scope then
      if las.isEmpty then s
      else s.faultReq r (las.map (·.lane))
        { cause := cSCOPE, addr := (las.head?.map r.laneAddr).getD 0, detail := BitVec.ofNat 32 (r.scope + 8 * ceiling), rank := rankSCOPE }
    else las.foldl (fun s la =>
      let old := leValue (s.bytesAt p la.off 4)
      let n := atomicNew k type rnd ftz old (leValue (la.data.take 4)) (leValue (la.data.drop 4))
      let q := s.storeAt r.vd p [(la.off, leBytes 4 n.1)]
      (q.1.wakeLaunches.setResult r la.lane (old + 2 ^ 32 * q.2) 3).orFp r n.2) s

/-- An LDRB: the record is checked as it returns (R119, R310). -/
def State.performRecord (s : State) (r : Req) (p : Place) : State :=
  let addr := (r.lanes.head?.map fun la => r.va + la.off).getD r.va
  let judge (s : State) (bytes : LaneAccess → List Byte) : State :=
    let (s, las) := s.raced r false false
    las.foldl (fun s la =>
      let v := leValue (bytes la)
      if recOk (BitVec.ofNat 128 v) then s.setResult r la.lane v 15
      else
        let w := ((s.outOf r).map (·.word)).getD 0
        s.faultReq r (las.map (·.lane)) { cause := cILLOP, addr := addr, detail := w, rank := 60 }) s
  match s.roHit r p with
  | some bs => judge s fun la => (bs.drop la.off).take 16
  | none =>
    match s.reqSyndrome p with
    | some syn => s.ue r r.lanes addr syn
    | none => ((judge s fun la => s.bytesAt p la.off 16).roFill r p).allocate r p

/-! ### Objects (R313 to R319) -/

/-- The address that a fault of the object reports: its virtual address, or its offset in the scratchpad; UE there names the
window and the element, which is its first (R354). -/
def Req.objectAddr (r : Req) (cause : Nat) : Nat :=
  match r.place.space with
  | .scratch _ => if cause = cUE then r.va else r.place.addr
  | _ => r.va

/-- FLT7 of BOUNDS for the object of a word (R354). -/
def objectDetail (w : Word) (window : Bool) : Word :=
  BitVec.ofNat 32 (bitsOf w.toNat 12 4 + (if window then 16 else 0) + 2 ^ 31)

/-- A fault of the object, for every active lane. -/
def State.objectFault (s : State) (r : Req) (cause rank : Nat) (detail : Word) : State :=
  match s.outOf r with
  | none => s
  | some o => s.faultReq r [] { cause := cause, lanes := some o.lanes, addr := r.objectAddr cause, detail := detail, rank := rank, lines := none }

/-- The bytes of the request's object, or UE. -/
def State.objectBytes (s : State) (r : Req) (p : Place) (n : Nat) : Except Word (List Byte) :=
  match p.space with
  | .scratch gid =>
    match (s.group? gid).bind fun g => g.poisonIn p.addr n with
    | some syn => .error syn
    | none => .ok (s.bytesAt p 0 n)
  | _ =>
    match s.readSyndrome p with
    | some syn => .error syn
    | none => .ok (s.lineBytes p (r.va % 128) n)

def rankILLOP : Nat := 53

/-- The race check of an access to an object, which is one for every lane; an access that changes the object in one step is
compared as an atomic is (R152, R155; log 92). Nothing where RACE is raised. -/
def State.objectRaced (s : State) (r : Req) (atomic : Bool) : State × Bool :=
  let x := s.raced r atomic atomic
  (x.1, x.2.length < r.lanes.length)

/-- The word of the operation. -/
def State.wordOfReq (s : State) (r : Req) : Word := ((s.outOf r).map (·.word)).getD 0

/-- The claim of a slot (R160, R314). -/
def State.performClaim (s : State) (r : Req) (p : Place) : State :=
  match s.objectBytes r p 64 with
  | .error syn => s.objectFault r cUE rankUE syn
  | .ok bs =>
    let d := QDesc.ofBytes bs
    let (s, raced) := s.objectRaced r true
    if raced then s
    else if !d.ok then s.objectFault r cILLOP rankILLOP (s.wordOfReq r)
    else
      let lane := (r.lanes.head?.map (·.lane)).getD 0
      if d.full then (s.setResult r lane d.widx 1).setCc r { n := false, z := true, c := false, v := false }
      else
        let s := (s.storeAt r.vd p [(r.va % 128 + 12, leBytes 4 ((d.widx + 1) % 2 ^ 32))]).1
        (s.setResult r lane d.widx 1).setCc r Flags.zero

/-- Send the second part of an instruction on an object: the requests to the slots it names, at the instruction's place in
program order and held by its release. They are race-checked where they lie in the bytes of the record (log 92). -/
def State.sendMore (s : State) (r : Req) (m : MemOp) (pieces : List Piece) : State :=
  match s.hereOf r with
  | none => s
  | some h =>
    let act := ((s.outOf r).map (·.lanes)).getD h.active
    let m := { m with check := r.check.filter fun c => c.covers pieces }
    let from_ := s.nextReq
    let q := s.sendLines { h with frag := { h.frag with lines := none, release := [] } } r.op act r.once m pieces
    let s := q.1.mapReqs fun (x : Req) => if from_ ≤ x.id then { x with root := r.root, waits := r.later } else x
    q.2.2.foldl (fun s t => s.faultReq r [] t) s

/-- The order 4 of an object's slots (R313): the lanes whose slot does not translate trap first, and a slot that misses the second
stage is waited for, before `next` looks further at the object for the other lanes. -/
def State.afterSlots (s : State) (r : Req) (kind : Access) (pieces : List Piece) (next : State → State) : State :=
  let src := ((s.hereOf r).map fun h => h.group.slotOf h.team).getD 0xFFFF
  let answers := ((pieces.map fun p => p.addr / 128).eraseDups).zipIdx.map fun l =>
    (l.1, (s.choicesOn l.2).lineAnswer r.cluster r.vd (l.1 * 128) (l.1 * 128) kind)
  let lanesOn (l : Nat) : List Nat := (pieces.filter fun p => p.addr / 128 == l).map (·.lane)
  match answers.findSome? fun a => match a.2 with | .miss g t => some (a.1, g, t) | _ => none with
  | some (l, g, t) => s.pageMiss r.vd (dieOf r.cluster) src (l * 128) g (if t then 1 else 0) (decide (kind = .write)) [.line r g]
  | none =>
    let s := answers.foldl (fun s a => match a.2 with
      | .bad t log =>
        (s.logDrop src r.vd log).faultReq r (lanesOn a.1) { t with addr := ((pieces.find? fun p => p.addr / 128 == a.1).map (·.addr)).getD t.addr }
      | _ => s) (s.choicesOn answers.length)
    if answers.all fun a => match a.2 with | .bad _ _ => true | _ => false then s else next s

/-- QWRITE and QPOST read their descriptor, and their stores follow (R315, R316). -/
def State.performQueue (s : State) (r : Req) (p : Place) (quarter : Option Nat) : State :=
  match s.objectBytes r p 64 with
  | .error syn => s.objectFault r cUE rankUE syn
  | .ok bs =>
    let d := QDesc.ofBytes bs
    let slot (la : LaneAccess) : Nat := d.slotAt (leValue (la.data.take 4)) + 16 * quarter.getD 0
    let first := (r.lanes.head?.map slot).getD 0
    let ceiling := (s.vd r.vd).ceiling
    let raced := (s.objectRaced r false).2
    let s' := (s.objectRaced r false).1
    let slots : List Piece := r.lanes.map fun la =>
      { lane := la.lane, addr := slot la, len := if quarter.isSome then 16 else 1, data := [], at_ := 0 }
    let badScope := quarter.isNone && decide (ceiling < d.scope)
    if quarter.isSome && first % 16 != 0 then
      s.faultReq r (r.lanes.map (·.lane)) { cause := cALIGN, addr := first, detail := objectDetail (s.wordOfReq r) false, rank := 2, lines := none }
    else if raced || !d.ok || badScope then
      s.afterSlots r .write slots fun s =>
        let x := s.objectRaced r false
        if x.2 then x.1
        else if !d.ok then s.objectFault r cILLOP rankILLOP (s.wordOfReq r)
        else s.objectFault r cSCOPE rankSCOPE (BitVec.ofNat 32 (d.scope + 8 * ceiling))
    else
      let s := s'
      let body (la : LaneAccess) : List Byte :=
        match quarter, la.data.drop 4 with
        | none, _ => leBytes 6 r.va ++ leBytes 4 (d.turn (leValue (la.data.take 4)))
        | some 0, b :: bs => (b &&& 0x7F#8) :: bs
        | _, bs => bs
      s.sendMore r { access := .write, action := if quarter.isSome then .write else .post, flow := r.flow, hint := r.hint }
        (r.lanes.map fun la => { lane := la.lane, addr := slot la, len := if quarter.isSome then 16 else 1, data := body la, at_ := 0 })

/-- RDY is set in a slot, unless its line is poisoned (R316); the group keeps the queue's descriptor and the slot's number
until the packet has completed (R53, R54; log 94). -/
def State.performPost (s : State) (r : Req) (p : Place) : State :=
  match s.readSyndrome p with
  | some syn => s.ue r r.lanes ((r.lanes.head?.map fun la => r.va + la.off).getD r.va) syn
  | none =>
    let (s, las) := s.raced r true false
    if las.isEmpty then s
    else
      let posts := las.map fun la => (leValue (la.data.take 6), leValue (la.data.drop 6))
      let s' := (s.storeAt r.vd p (las.map fun la => (la.off, (s.lineBytes p la.off 1).map (· ||| 0x80#8)))).1.storeHint r p (s.isCached p)
      s'.modGroup r.gid fun g => { g with posted := (g.posted ++ posts).eraseDups }

/-- The operation of an AWAITF ends with its trap, at the fragment's park (R313, R317; log 28). -/
def State.endAwait (s : State) (r : Req) : State :=
  match s.hereOf r with
  | none => s
  | some h =>
    (s.modTeam r.gid r.tid fun t => { t with outs := t.outs.filter fun o => o.id != r.op }).modFrag
      ⟨r.gid, r.tid, h.frag.entry, h.frag.part⟩ fun f => { f with park := if f.marked then .marker else .drain, marked := false }

/-- The ring object of a request, with the checks of order 5 (R313, R180). -/
def State.objectRing (s : State) (r : Req) (p : Place) (ceil : Bool) : Except (Option (Nat × Nat × Word)) Ring :=
  match s.objectBytes r p 32 with
  | .error syn => .error (some (cUE, rankUE, syn))
  | .ok bs =>
    let g := Ring.ofBytes bs
    let ceiling := (s.vd r.vd).ceiling
    if (s.objectRaced r (r.action.access = .write)).2 then .error none
    else if !g.ok (s.ringExtent r.object) then .error (some (cILLOP, rankILLOP, s.wordOfReq r))
    else if ceil && decide (ceiling < g.scope) then .error (some (cSCOPE, rankSCOPE, BitVec.ofNat 32 (g.scope + 8 * ceiling)))
    else .ok g

/-- A fault of the ring object of a request; none stands for RACE, which its race check raises. -/
def State.ringFault (s : State) (r : Req) (e : Option (Nat × Nat × Word)) : State :=
  match e with
  | some e => s.objectFault r e.1 e.2.1 e.2.2
  | none => s

/-- The state after the race check of a request's ring object, where the object could be read. -/
def State.ringRaced (s : State) (r : Req) (p : Place) : State :=
  match s.objectBytes r p 32 with
  | .ok _ => (s.objectRaced r (r.action.access = .write)).1
  | .error _ => s

/-- AWAITF reads its ring, and waits on it (R317). -/
def State.performAwait (s : State) (r : Req) (p : Place) (n : Nat) : State :=
  let x := s.objectRing r p true
  let s := s.ringRaced r p
  match x with
  | .error e => (s.ringFault r e).endAwait r
  | .ok g =>
    if g.count < n then
      (s.objectFault r cBOUNDS rankILLOP (objectDetail (s.wordOfReq r) r.object.window.isSome)).endAwait r
    else
      (s.modTeam r.gid r.tid fun t => t.modOut r.op fun o => { o with kind := .awaitf n r.object }).wakeAwaits

/-- RELSLOT: RPTR advances in one step, and parked packets wake (R318). -/
def State.performRelease (s : State) (r : Req) (p : Place) (n : Nat) : State :=
  let x := s.objectRing r p true
  let s := s.ringRaced r p
  match x with
  | .error e => s.ringFault r e
  | .ok g =>
    let done := sub32 g.cptr g.rptr
    if done < n then s.objectFault r cBOUNDS rankILLOP (BitVec.ofNat 32 done)
    else if n = 0 then s
    else
      let s := (s.storeAt r.vd p [((match p.space with | .scratch _ => 0 | _ => r.va % 128) + 20, leBytes 4 ((g.rptr + n) % 2 ^ 32))]).1
      s.wakeSide r.object

/-- RDPROM reads its ring, and the statuses follow (R319). -/
def State.performPromise (s : State) (r : Req) (p : Place) : State :=
  let at_ (g : Ring) (la : LaneAccess) : Nat := g.statusAt (leValue (la.data.take 4))
  match s.objectRing r p false with
  | .error e =>
    match p.space, s.objectBytes r p 32 with
    | .scratch _, _ => (s.ringRaced r p).ringFault r e
    | _, .error _ => s.ringFault r e
    | _, .ok bs =>
      s.afterSlots r .read (r.lanes.map fun la => { lane := la.lane, addr := at_ (Ring.ofBytes bs) la, len := 5, data := [], at_ := 0 })
        fun s => (s.ringRaced r p).ringFault r e
  | .ok g =>
    let s := s.ringRaced r p
    let at_ := at_ g
    match p.space with
    | .scratch gid =>
      let win := (s.group? gid).bind fun x => x.window? r.va
      let base := (win.map (·.offset)).getD 0
      let elem (la : LaneAccess) : Nat := at_ la / 2 ^ (win.map (·.log2sz)).getD 0
      r.lanes.foldl (fun s la =>
        let q := { r with lanes := [{ la with off := at_ la, len := 5 }], place := { p with addr := base } }
        match (s.group? gid).bind fun x => x.poisonIn (base + at_ la) 5 with
        | some syn =>
          (s.faultReq r [la.lane] { cause := cUE, addr := r.va + 2 ^ 32 * elem la, detail := syn, rank := rankUE }).setBad r la.lane 3
        | none =>
          let (s, ok) := s.raced q false false
          if ok.isEmpty then s else s.setResult r la.lane (leValue (s.bytesAt { p with addr := base + at_ la } 0 5)) 3) s
    | _ =>
      s.sendMore r { access := .read, action := .read false, flow := r.flow, hint := r.hint }
        (r.lanes.map fun la => { lane := la.lane, addr := at_ la, len := 5, data := [], at_ := 0 })

/-- SEAL reads its record and judges it (R165, R320). -/
def State.performSeal (s : State) (r : Req) (p : Place) : State :=
  let la := r.lanes.headD { lane := 0, off := 0, len := 32, data := [], at_ := 0 }
  match s.readSyndrome p with
  | some syn => (s.ue r r.lanes (r.va + la.off) syn).setBad r la.lane 1
  | none =>
    let q := (s.vd r.vd).sealRecord (leValue (s.lineBytes p la.off 32))
    let s := s.setVd r.vd q.1
    match q.2 with
    | .ok h => (s.setResult r la.lane h 1).setCc r Flags.zero
    | .error why => (s.setResult r la.lane (0xC0000000 + why) 1).setCc r { n := false, z := true, c := false, v := false }

/-- PUBLISH flips the dual-backed range (R150, R322). -/
def State.performPublish (s : State) (r : Req) : State :=
  let v := s.vd r.vd
  let addr := (r.lanes.head?.map fun la => r.va + la.off).getD r.va
  match r.place.dual with
  | none => s.faultReq r (r.lanes.map (·.lane)) { cause := cPERM, addr := addr, detail := 3, rank := rankPERM }
  | some (n, _) =>
    if v.ceiling < 5 then
      s.faultReq r (r.lanes.map (·.lane)) { cause := cSCOPE, addr := addr, detail := BitVec.ofNat 32 (5 + 8 * v.ceiling), rank := rankSCOPE }
    else s.setVd r.vd { v with pubs := v.pubs.set n ((v.pubs.getD n 0#128) ^^^ BitVec.ofNat 128 (2 ^ 96)) }

/-! ### Entries and flushes (R338, R341) -/

/-- A PTW writes its entry; a poisoned line is cleared with it. -/
def State.performPtw (s : State) (r : Req) (p : Place) : State :=
  let ws := r.lanes.map fun la => (la.off, la.data)
  if (s.poison? p.space p.addr).isSome then
    (s.storeAt r.vd p ((0, List.replicate 128 0#8) :: ws)).1
  else (s.storeAt r.vd p ws).1

/-! ### The step -/

/-- Actions whose performance is acknowledged (R144). -/
def Action.acked : Action → Bool
  | .write | .atomic .. | .flush | .ptw | .claim | .post | .release _ => true
  | _ => false

/-- The effect of a request at its home. -/
def State.performAt (s : State) (r : Req) : State :=
  let p := s.served r.vd r.place false
  match r.action with
  | .read signed => s.performRead r p signed
  | .write => s.performWrite [r] r p
  | .atomic k type rnd ftz => s.performAtomic r p k type rnd ftz
  | .readRecord => s.performRecord r p
  | .flush => (s.writeBackLine p.space p.addr).dropRo r.cluster p
  | .prefetch => if (s.readSyndrome p).isSome then s else (s.roFill r p).allocate r p
  | .ptw => s.performPtw r p
  | .claim => s.performClaim r p
  | .queueStore quarter => s.performQueue r p quarter
  | .post => s.performPost r p
  | .await n => s.performAwait r p n
  | .release n => s.performRelease r p n
  | .promise => s.performPromise r p
  | .seal => s.performSeal r p
  | .sealRelease h => s.setVd r.vd ((s.vd r.vd).sealRelease h)
  | .publish => s.performPublish r

/-- A store of a QWRITE or a QPOST into a slot. -/
def State.slotStore (s : State) (r : Req) : Bool :=
  match r.action with
  | .post => true
  | .write => match s.outOf r with
    | some o => (match decode o.word with | .ok (.qwrite ..) => true | _ => false)
    | none => false
  | _ => false

/-- The fragment that is parked in a PTW with a request, and the fault it raises. -/
def State.faultPtw (s : State) (r : Req) (t : Trap) : State :=
  match s.group? r.gid with
  | none => s
  | some g =>
    match (g.team? r.tid).bind fun tm => (tm.frags.find? fun f => decide (f.park = .ptw r.id)).map fun f => (tm, f) with
    | none => s
    | some (tm, f) =>
      let p : PendFault :=
        { op := r.op, rank := t.rank, cause := t.cause, lanes := r.lanes.foldl (fun m la => m ||| BitVec.ofNat 1024 (2 ^ la.lane)) 0#1024,
          addr := t.addr, detail := t.detail, pte := 0, pc := f.pc - 4#48, deferred := 0#1024, held := false, dest := [], lines := none }
      s.setGroup (g.setTeam (({ tm with faults := insertFault tm.faults p } : Team).setFrag { f with park := .trap, marked := false }))

/-- A request faults, held or at its home. -/
def State.faultHeld (s : State) (r : Req) (t : Trap) : State :=
  match r.action with
  | .ptw => s.faultPtw r t
  | .await _ => (s.faultReq r (r.lanes.map (·.lane)) t).endAwait r
  | _ => s.faultReq r (r.lanes.map (·.lane)) t

/-- The first address of a request's lanes. -/
def Req.firstAddr (r : Req) : Nat := r.va / 128 * 128 + (r.lanes.head?.map (·.off)).getD 0

/-- The requests of an access whose bytes a secure region now serves, since a publish entry was flipped: they are dropped and logged, and
PERM is raised, a prefetch silently (R312, R432). -/
def State.dropDenied (s : State) (rs : List Req) : State :=
  rs.foldl (fun s (r : Req) =>
    let slot := ((s.group? r.gid).bind fun g => (g.team? r.tid).map g.slotOf).getD 0
    if r.action = .prefetch then s else
    (s.logDrop slot r.vd (some ((s.served r.vd r.place false).addr + r.firstAddr % 128, r.action.access))).faultHeld r
      { cause := cPERM, addr := r.firstAddr, detail := 2, rank := rankPERM })
    { s with reqs := s.reqs.filter fun q => !(rs.any fun (x : Req) => x.id == q.id) }

/-- Perform a request with the others of its instruction to its line, as one access (R126): their effects in order, their
acknowledgements, and those that waited for them; a store into a slot of a mooring device's queue wakes the device (R435). -/
def State.perform (s : State) (r : Req) : State :=
  let rs : List Req := s.together r
  if s.worldDenies r.vd r.place then ((s.dropDenied rs).wakeWaits.wakeAwaits).settle r.gid else
  let s := if decide ((s.vd r.vd).moor ≠ .running) && s.slotStore r then s.wakeDevice r.vd else s
  let p := s.served r.vd r.place false
  let s := if r.action.access = .write then s.wakeBySlot p else s
  let free := s.wrongKey p
  let s := s.heal p
  let s := match r.action with
    | .write => s.performWrite rs r p
    | _ => rs.foldl State.performAt s
  let s := if free && r.action.access = .read then { s with fresh := s.fresh + 128 } else s
  let s := if decide (r.hint = 1) && (match r.action with | .read _ | .readRecord => true | _ => false) then s.popChoice else s
  let s := { s with reqs := s.reqs.filter fun q => !(rs.any fun (x : Req) => x.id == q.id),
                    acks := s.acks ++ (rs.filter fun (q : Req) => q.action.acked && (s.hereOf q).isSome).map fun (q : Req) => q.root }
  (s.wakeWaits.wakeAwaits).settle r.gid

/-- LINE_REQUEST: the request with this number is performed, if it may be, and with it the others of its instruction to its line. -/
def execLineRequest (id : Nat) (s : State) : Host.Outcome State Fault Refusal :=
  .next (match s.reqs.find? fun r => r.id == id with
    | none => s
    | some r => if s.reqReady r then s.perform r else s)

end Sys2Proof.Machine
end

