-- ==== Sys2Proof/Machine/Sha.lean ====
section
/-!
DEFINITION. The digest of a checkpoint chunk: SHA-256 under FIPS 180-4 (07 R178).
-/
namespace Sys2Proof.Machine

/-- The round constants. -/
def shaK : List Word :=
  [0x428a2f98#32, 0x71374491#32, 0xb5c0fbcf#32, 0xe9b5dba5#32, 0x3956c25b#32, 0x59f111f1#32, 0x923f82a4#32, 0xab1c5ed5#32,
   0xd807aa98#32, 0x12835b01#32, 0x243185be#32, 0x550c7dc3#32, 0x72be5d74#32, 0x80deb1fe#32, 0x9bdc06a7#32, 0xc19bf174#32,
   0xe49b69c1#32, 0xefbe4786#32, 0x0fc19dc6#32, 0x240ca1cc#32, 0x2de92c6f#32, 0x4a7484aa#32, 0x5cb0a9dc#32, 0x76f988da#32,
   0x983e5152#32, 0xa831c66d#32, 0xb00327c8#32, 0xbf597fc7#32, 0xc6e00bf3#32, 0xd5a79147#32, 0x06ca6351#32, 0x14292967#32] ++
  [0x27b70a85#32, 0x2e1b2138#32, 0x4d2c6dfc#32, 0x53380d13#32, 0x650a7354#32, 0x766a0abb#32, 0x81c2c92e#32, 0x92722c85#32,
   0xa2bfe8a1#32, 0xa81a664b#32, 0xc24b8b70#32, 0xc76c51a3#32, 0xd192e819#32, 0xd6990624#32, 0xf40e3585#32, 0x106aa070#32,
   0x19a4c116#32, 0x1e376c08#32, 0x2748774c#32, 0x34b0bcb5#32, 0x391c0cb3#32, 0x4ed8aa4a#32, 0x5b9cca4f#32, 0x682e6ff3#32,
   0x748f82ee#32, 0x78a5636f#32, 0x84c87814#32, 0x8cc70208#32, 0x90befffa#32, 0xa4506ceb#32, 0xbef9a3f7#32, 0xc67178f2#32]

/-- The initial hash value. -/
def shaInit : List Word :=
  [0x6a09e667#32, 0xbb67ae85#32, 0x3c6ef372#32, 0xa54ff53a#32, 0x510e527f#32, 0x9b05688c#32, 0x1f83d9ab#32, 0x5be0cd19#32]

def rotr (x : Word) (n : Nat) : Word := x.rotateRight n

/-- The message schedule: the last 16 words, oldest first, give the next one. -/
def shaSchedule : Nat → List Word → List Word
  | 0, _ => []
  | n + 1, w =>
    let a := w.getD 0 0#32
    let b := w.getD 1 0#32
    let i := w.getD 9 0#32
    let o := w.getD 14 0#32
    let s0 := rotr b 7 ^^^ rotr b 18 ^^^ b >>> 3
    let s1 := rotr o 17 ^^^ rotr o 19 ^^^ o >>> 10
    a :: shaSchedule n (w.drop 1 ++ [a + s0 + i + s1])

/-- One round over the working variables a to h. -/
def shaRound (v : List Word) (kw : Word × Word) : List Word :=
  match v with
  | [a, b, c, d, e, f, g, h] =>
    let t1 := h + (rotr e 6 ^^^ rotr e 11 ^^^ rotr e 25) + ((e &&& f) ^^^ (~~~e &&& g)) + kw.1 + kw.2
    let t2 := (rotr a 2 ^^^ rotr a 13 ^^^ rotr a 22) + ((a &&& b) ^^^ (a &&& c) ^^^ (b &&& c))
    [t1 + t2, a, b, c, d + t1, e, f, g]
  | v => v

/-- One block of 16 words. -/
def shaBlock (h : List Word) (block : List Word) : List Word :=
  let v := (shaK.zip (shaSchedule 64 block)).foldl shaRound h
  (h.zip v).map fun p => p.1 + p.2

/-- A big-endian word of four bytes. -/
def beWord (bs : List Byte) : Word := BitVec.ofNat 32 (leValue (bs.take 4).reverse)

/-- The blocks of a padded message. -/
def shaBlocks : Nat → List Byte → List Word → List Word
  | 0, _, h => h
  | n + 1, bs, h => shaBlocks n (bs.drop 64) (shaBlock h ((List.range 16).map fun k => beWord (bs.drop (4 * k))))

/-- The digest of a message, 32 bytes. -/
def sha256 (msg : List Byte) : List Byte :=
  let pad := (119 - msg.length % 64) % 64
  let m := msg ++ [0x80#8] ++ List.replicate pad 0#8 ++ (leBytes 8 (8 * msg.length)).reverse
  (shaBlocks (m.length / 64) m shaInit).flatMap fun w => (leBytes 4 w.toNat).reverse

end Sys2Proof.Machine
end

