-- ==== Sys2Proof/Machine/Engines.lean ====
section
/-!
DEFINITION. Servers of queues: taking slots, the data movement of COPY, FILLA, FILLB, MCAST, CKPT and MARK, and the
completion of packets (07 R158 to R184; 25 R445). A packet's event moves up to n elements (panels, chunks), 0 meaning all
that are left (log 18).
-/
namespace Sys2Proof.Machine

/-! ### Taking a slot (R158 to R161) -/

/-- A queue that the driver binds to the server that its SID names: it is known, and its descriptor checked, once the server
first looks at it (R159). -/
def State.bindStatic (s : State) (q : QueueId) : State :=
  let inRange := match q.kind with
    | .engine => decide (q.unit < 216) && decide (q.ctx < 4)
    | .launchUnit => decide (q.unit < 3) && q.ctx == 0
    | .peerPort => decide (q.unit < 8) && q.ctx == 0
  let sid := match q.kind with | .engine => 4 * q.unit + q.ctx | _ => q.unit
  let taken := decide (q.kind = .engine) && s.queues.any fun x => decide (x.id.kind = .engine) && x.id.unit == q.unit && x.id.ctx == q.ctx
  if (s.queue? q).isSome || !inRange || taken || !s.serverUp q then s
  else
    match s.desc q.vd q.desc with
    | .ok d =>
      if d.sid = sid ∧ d.skind = kindCode q.kind then
        let x := Queue.bound q none true false
        let s := { s with queues := s.queues ++ [x] }
        if s.descOk q d then s else s.haltQueue x
      else s
    | .error (.miss g t) => s.pageMiss q.vd (serverDie q) 0xFFFF q.desc g (if t then 1 else 3) false [.queue q]
    | .error b => s.logBad q false b

/-- The server of a queue takes packets: its die is TRUSTED, the device is created, not quiesced and not moored, and the
issuing group's launch is not being terminated. -/
def State.serves (s : State) (x : Queue) : Bool :=
  !s.serverStopped x.id &&
  (match x.group.bind s.group? with
    | some g => decide (g.phase = .resident) && ((s.launchOf g).map fun l => decide (l.phase ≠ .stopping)).getD false
    | none => x.group.isNone)

/-- Take slot RIDX: it is copied, RDY is cleared and RIDX advances. -/
def State.takeQueueSlot (s : State) (x : Queue) (d : QDesc) : State :=
  let q := x.id
  let at_ := d.slotAt d.ridx
  match s.readVa q.vd at_ 64 with
  | .error (.miss g t) => s.queueMiss q g t at_ false .slot
  | .error b => (s.logBad q false b).haltQueue x
  | .ok bs =>
    let bits := leValue bs
    if !bitOf bits 7 then s.setQstate q 1
    else
      let wr := (s.writeVa q.vd at_ [BitVec.ofNat 8 (bits % 256 - 128)]).bind fun s =>
        s.writeVa q.vd (q.desc + 16) (leBytes 4 ((d.ridx + 1) % 2 ^ 32))
      match wr with
      | .error (.miss g t) => s.queueMiss q g t at_ true .slot
      | .error b => (s.logBad q true b).haltQueue x
      | .ok s =>
        let p : Packet :=
          { slot := d.ridx, bits := bits, group := x.group, ring := none, receivers := [], started := false, woken := false, reported := false, layoutA := 0,
            layoutB := 0, progress := 0, done := 0, flags := 0, code := none, fva := 0, hdr := none, wins := [] }
        (s.setQueue { x with head := some p }).setQstate q 0

/-- QUEUE_SLOT_TAKE: the server looks at its queue: it checks the descriptor and takes the slot at RIDX. -/
def execQueueSlotTake (q : QueueId) (s : State) : Host.Outcome State Fault Refusal :=
  let s := s.bindStatic q
  .next (match s.queue? q with
    | none => s
    | some x =>
      if !s.serves x || x.halted || x.head.isSome || x.miss.isSome then s
      else
        match s.desc q.vd q.desc with
        | .error (.miss g t) => s.queueMiss q g t q.desc false .slot
        | .error b => (s.logBad q false b).haltQueue x
        | .ok d =>
          if d.ridx = d.widx ∧ x.checked then s
          else s.serve q [q.desc, d.slotAt d.ridx] fun s =>
            let x := { x with checked := true, paid := 0 }
            if !s.descOk q d then s.haltQueue x
            else if d.ridx = d.widx then s.setQueue x
            else (s.takeQueueSlot x d).popChoice)

/-! ### Elements (R164, R167 to R169, R172) -/

/-- A read of one element: its pattern in the destination's format (none: it was poisoned) with the flags it sets, or the
access that failed with its address. -/
abbrev ElemRead := Except (Bad × Nat) (Option Nat × Nat)

/-- Read and convert the element of a tensor at some coordinates; outside the tensor it is zero. -/
def State.sourceElem (s : State) (vd lay : Nat) (conv : Nat → Nat × Nat) (coords : List Nat) : ElemRead :=
  if !layInside lay coords then .ok (some 0, 0)
  else
    match s.valueVa vd (layAddr lay coords) (laySize lay) with
    | .ok v => .ok (some (conv v).1, (conv v).2)
    | .error (.poison _) => .ok (none, flPOISON)
    | .error b => .error (b, layAddr lay coords)

/-- What element j of the index tensor supplies: a coordinate, or a zero with flags. -/
def State.indexElem (s : State) (vd lay j ext : Nat) : Except (Bad × Nat) (Except Nat Nat) :=
  if layExt lay 0 ≤ j then .ok (.error 0)
  else
    match s.valueVa vd (layAddr lay [j]) 4 with
    | .ok v =>
      let x := intOf (layFmt lay == 0) 32 v
      if x < 0 ∨ (ext : Int) ≤ x then .ok (.error flCOORD) else .ok (.ok x.toNat)
    | .error (.poison _) => .ok (.error flPOISON)
    | .error b => .error (b, layAddr lay [j])

/-- The coordinates of the n-th element, dimension 0 fastest. -/
def unrank : List Nat → Nat → List Nat
  | [], _ => []
  | e :: es, n => n % e :: unrank es (n / e)

/-- The coordinates of the n-th element of a COPY or MCAST in the data tensor, or a zero's flags (R167, R170). -/
def State.copyCoords (s : State) (vd : Nat) (p : Packet) (n : Nat) : Except (Bad × Nat) (Except Nat (List Nat)) :=
  let lay := p.data
  let exts := (List.range (layRank lay)).map (layExt lay)
  if !p.ind then .ok (.ok (unrank exts n))
  else (s.indexElem vd p.layoutA (n / p.inner) (layExt lay (layRank lay - 1))).map fun r =>
    r.map fun c => unrank exts.dropLast (n % p.inner) ++ [c]

/-- An element at coordinates, or a zero. -/
def State.elemAt (s : State) (vd lay : Nat) (conv : Nat → Nat × Nat) (c : Except (Bad × Nat) (Except Nat (List Nat))) : ElemRead :=
  match c with
  | .error e => .error e
  | .ok (.error f) => .ok (some 0, f)
  | .ok (.ok cs) => s.sourceElem vd lay conv cs

/-- The n-th element of a COPY or MCAST. -/
def State.copyElem (s : State) (vd : Nat) (p : Packet) (n : Nat) : ElemRead :=
  s.elemAt vd p.data (convElem (layFmt p.data) p.dfmt) (s.copyCoords vd p n)

/-- The address of the element at coordinates. -/
def elemLine (lay : Nat) (c : Except (Bad × Nat) (Except Nat (List Nat))) : List Nat :=
  match c with
  | .ok (.ok cs) => if layInside lay cs then [layAddr lay cs] else []
  | _ => []

/-- The format of a panel's elements: in the FIFO, or in a ring slot. -/
def panelFormat (cls : Nat) (slot : Bool) : Format :=
  match cls with
  | 0 => if slot then fp32 else c19
  | 1 => fp32
  | _ => fp64

/-- A source pattern in a panel's format. -/
def convPanel (src cls : Nat) (slot : Bool) (pat : Nat) : Nat × Nat :=
  if (src = 8 ∧ cls = 1) ∨ (src = 9 ∧ cls = 2) then (pat, 0)
  else if src = 0x80 ∧ pat % 256 = 0x80 then ((panelFormat cls slot).nanCode, flINV)
  else
    match codeFormat src with
    | some f => ((round (decodeNum f pat) (panelFormat cls slot) 1 false false).1, 0)
    | none => (0, 0)

/-- The row, which the index tensor is read at under IND, of element (a, k) of panel `pn` of a FILLA or FILLB, and its coordinates in the
data tensor, or a zero's flags (R172); a gathered dimension at or above RANK has extent 1 (log 137). -/
def Packet.panelRow (p : Packet) (a : Nat) : Nat := p.org (if p.type = 2 then 1 else 0) + a
def State.panelCoords (s : State) (vd : Nat) (p : Packet) (pn a k : Nat) : Except (Bad × Nat) (Except Nat (List Nat)) :=
  let rowDim := if p.type = 2 then 1 else 0
  let col := p.org (1 - rowDim) + pn * p.kcnt + k
  let at_ (row : Nat) : List Nat := (if p.type = 2 then [col, row] else [row, col]) ++ [p.org 2, p.org 3, p.org 4]
  if !p.ind then .ok (.ok (at_ (p.panelRow a)))
  else (s.indexElem vd p.layoutA (p.panelRow a) (if rowDim < layRank p.data then layExt p.data rowDim else 1)).map fun r => r.map at_

/-- An element of a panel. -/
def State.panelElem (s : State) (vd : Nat) (p : Packet) (slot : Bool) (pn a k : Nat) : ElemRead :=
  s.elemAt vd p.data (convPanel (layFmt p.data) p.cls slot) (s.panelCoords vd p pn a k)

/-- Elements that were read: their bytes, the numbers of the poisoned ones, flags, how many, and what stopped the read. -/
structure Moved where
  bytes : List Byte
  bad : List Nat
  flags : Nat
  count : Nat
  stop : Option (Bad × Nat)
  deriving DecidableEq, Repr

/-- Read n elements of a size, from number k on, up to the first that fails. -/
def gather (elem : Nat → ElemRead) (size : Nat) : Nat → Nat → Moved
  | _, 0 => { bytes := [], bad := [], flags := 0, count := 0, stop := none }
  | k, n + 1 =>
    match elem k with
    | .error e => { bytes := [], bad := [], flags := 0, count := 0, stop := some e }
    | .ok (v, f) =>
      let r := gather elem size (k + 1) n
      { bytes := leBytes size (v.getD 0) ++ r.bytes, bad := if v.isNone then k :: r.bad else r.bad, flags := f ||| r.flags,
        count := r.count + 1, stop := r.stop }

/-! ### Destinations (R134, R169) -/

/-- Leave a destination poisoned: the line of a memory address, or the words of scratchpad that an element covers. What is
poisoned already keeps its syndrome (R451). -/
def State.taintAt (s : State) (r : RingSlot) (shadow : Bool) (a size : Nat) : State :=
  match r.window with
  | none =>
    match s.place r.vd a .write shadow with
    | .error _ => s
    | .ok p =>
      let p := s.served r.vd p shadow
      if (s.poison? p.space p.addr).isSome then s
      else s.setPoison p.space p.addr (match p.space with
        | .device => deviceSyndrome 1 0 (s.channel p.addr (lineIn p.addr))
        | _ => synTier2)
  | some (gid, w) =>
    match (s.group? gid).bind fun g => (g.window? w).map fun x => (g, x) with
    | none => s
    | some (g, x) =>
      s.setGroup { g with memPoison := (wordsIn (x.offset + a) size).foldl (fun l b =>
        if l.any fun q => q.1 == b then l else (b, BitVec.ofNat 32 (2 ^ 30 + s.bankOf g b * 2 ^ 8)) :: l) g.memPoison }

/-- Write elements at an address of a memory range or a window; poisoned ones leave it poisoned. -/
def State.deposit (s : State) (r : RingSlot) (shadow : Bool) (a size first : Nat) (m : Moved) : Except Bad State :=
  let wr := match r.window with
    | none => s.writeVa r.vd a m.bytes shadow
    | some _ => s.ringWrite r a m.bytes
  wr.map fun s => m.bad.foldl (fun s k => s.taintAt r shadow (a + size * (k - first)) size) s

/-- The first address of a range at which a write fails. -/
def State.badAddr (s : State) (r : RingSlot) (a n : Nat) (shadow : Bool := false) : Nat :=
  match r.window with
  | some _ => 0
  | none => (((linePieces a n).find? fun q => match s.place r.vd q.1 .write shadow with | .ok _ => false | .error _ => true).map (·.1)).getD a

/-! ### A packet's steps -/

/-- What a step of a packet comes to: the state, the packet, and the access that failed. -/
abbrev PacketStep := State × Packet × Option Failed

/-- A second-stage miss. -/
def Failed.miss (f : Failed) : Bool := match f with | (.miss _ _, _) => true | _ => false

/-- What a step that failed has reached beside what it moved: where it moved nothing, the lines of its next element up to the one that
failed, and the descriptor's, whose QSTATE a miss sets. -/
def failedLines (q : QueueId) (f : Option Failed) (next : List Nat) : List Nat :=
  match f with
  | none => []
  | some f => next.takeWhile (fun va => decide (va / 128 ≠ f.2.1 / 128)) ++ (if f.miss then [q.desc] else [])

/-- Let a queue's running packet make a step: a woken packet, and the one at the head, is started first if it is not (R182, R184). A step
waits for its lines (R402, R420, R421, R436); `lines` are those that taking the packet to a later stage reaches. -/
def State.packetStep (s : State) (q : QueueId) (want : Packet → Bool) (lines : State → Packet → Packet → List Nat) (k : State → Packet → PacketStep) : State :=
  let s := if s.serverStopped q then s else (s.startSide q).startHead q
  let s := match s.queue? q with
    | none => s
    | some x =>
      if x.miss.isSome || s.serverStopped q then s
      else
        match s.current q with
        | none => s
        | some (p, side) =>
          if !p.started || p.code.isSome || !want p then s
          else
            let put (r : PacketStep) : State :=
              match r with
              | (s, p, none) => s.popChoice.putCurrent q side (some p)
              | (s, p, some (.miss g t, va, wr)) => (s.popChoice.putCurrent q side (some p)).queueMiss q g t va wr (.run p.slot va)
              | (s, p, some (b, va, wr)) => (s.logBad q wr b).popChoice.putCurrent q side (some { p with code := some stFAULT, fva := va })
            let r := k s p
            let next := if r.2.1.progress = p.progress then lines s p { p with progress := p.progress + 1 } else []
            s.serve q (lines s p r.2.1 ++ failedLines q r.2.2 next) fun s => put (k s p)
  match (s.queue? q).bind (·.group) with
  | some gid => s.settle gid
  | none => s

/-- How many of what is left a step moves. -/
def stepCount (left n : Nat) : Nat := if n = 0 then left else min n left

/-- The access that stopped a read, as a step reports it. -/
def Moved.failed (m : Moved) : Option Failed := m.stop.map fun b => (b.1, b.2, false)

/-- Where a packet's own ring slot holds its data, or the read of its ring object that failed. -/
def State.slotData (s : State) (p : Packet) : Except Failed (RingSlot × Nat) :=
  match p.ring with
  | none => .error (.fault none, p.ringField, true)
  | some r => (s.ring r).mapError (fun e => (e, r.at_, false)) |>.map fun g => (r, g.dataAt r.slot)

/-- The destination of a COPY (R170). -/
def State.copyDest (s : State) (q : QueueId) (p : Packet) : Except Failed (RingSlot × Nat) :=
  if p.dslot then s.slotData p
  else if p.dwin then
    match p.group with
    | some gid => .ok ({ vd := q.vd, window := some (gid, p.dwnum), addr := 0, slot := 0 }, p.daddr)
    | none => .error (.fault none, p.ringField, true)
  else .ok ({ vd := q.vd, window := none, addr := 0, slot := 0 }, p.daddr)

/-- The packet after m of its elements, of `total`, have been written. -/
def Packet.moved (p : Packet) (m : Moved) (total : Nat) : Packet :=
  let p := { p with progress := p.progress + m.count, done := p.done + m.count, flags := p.flags ||| m.flags }
  if p.progress = total then { p with code := some stDONE } else p

/-- A COPY through a peer port: DADDR is an address of the paired remote device, whose memory is not of this machine. The
tape of choices says what the remote range table answers: 0 the write is performed, 1 it is denied, otherwise it misses
(R445; log 36). -/
def State.peerStep (s : State) (q : QueueId) (p : Packet) (m : Moved) : PacketStep :=
  let s := s.popChoice
  match s.oracle.headD 0 with
  | 0 => (s.setQstate q 0, p.moved m p.elements, m.failed)
  | 1 => (s.setQstate q 0, p, some (.fault none, p.daddr + p.dsize * p.progress, true))
  | _ => (s.setQstate q 4, p, none)

/-- A step of a COPY. One under SHADOW only looks at its whole destination, which must be dual-backed before anything is
written (R170): it reads and writes as it completes, into the shadow of that moment (R322). -/
def State.copyStep (q : QueueId) (n : Nat) (s : State) (p : Packet) : PacketStep :=
  if q.kind = .peerPort then s.peerStep q p (gather (s.copyElem q.vd p) p.dsize p.progress (stepCount (p.elements - p.progress) n))
  else
    match s.copyDest q p with
    | .error f => (s, p, some f)
    | .ok (r, at_) =>
      if p.shadow then
        match s.inDual q.vd at_ (p.elements * p.dsize) with
        | .error b => (s, p, some (b.1, b.2, true))
        | .ok false => (s, { p with code := some stBADDST }, none)
        | .ok true => (s, { p with progress := p.elements, done := p.elements, code := some stDONE }, none)
      else
        let m := gather (s.copyElem q.vd p) p.dsize p.progress (stepCount (p.elements - p.progress) n)
        let a := at_ + p.dsize * p.progress
        match s.deposit r false a p.dsize p.progress m with
        | .ok s => (s, p.moved m p.elements, m.failed)
        | .error b => (s, p, some (b, s.badAddr r a m.bytes.length, true))

/-- The addresses that elements m to n − 1 of a COPY or MCAST are read from. -/
def State.copyLines (s : State) (vd : Nat) (p : Packet) (m n : Nat) : List Nat :=
  (List.range (n - m)).flatMap fun i =>
    (if p.ind then [layAddr p.layoutA [(m + i) / p.inner]] else []) ++ elemLine p.data (s.copyCoords vd p (m + i))

/-- The lines of [a, a + n) of a destination. -/
def destLines (d : Except Failed (RingSlot × Nat)) (first n : Nat) : List Nat :=
  match d with
  | .ok (r, at_) => if r.window.isSome then [] else (linePieces (at_ + first) n).map (·.1)
  | .error _ => []

/-- The lines that a step of a COPY reads and writes. -/
def State.copyReach (q : QueueId) (s : State) (p p' : Packet) : List Nat :=
  if p.shadow then []
  else s.copyLines q.vd p p.progress p'.progress ++
    (if q.kind = .peerPort then [] else destLines (s.copyDest q p) (p.dsize * p.progress) (p.dsize * (p'.progress - p.progress)))

/-- COPY. -/
def execCopy (q : QueueId) (n : Nat) (s : State) : Host.Outcome State Fault Refusal :=
  .next (s.packetStep q (fun p => p.type == 1) (State.copyReach q) (State.copyStep q n))

/-- A step of an MCAST: the elements go to every receiver that is still there (R175). -/
def State.mcastStep (q : QueueId) (n : Nat) (s : State) (p : Packet) : PacketStep :=
  let m := gather (s.copyElem q.vd p) p.dsize p.progress (stepCount (p.elements - p.progress) n)
  let gids := p.receivers.filterMap fun r => r.window.map (·.1)
  let here := gids.filter fun g => (s.group? g).isSome
  let p := if here.length < gids.length then { p with flags := p.flags ||| flGONE } else p
  let a := p.daddr + p.dsize * p.progress
  let s := here.foldl (fun s g =>
    match s.deposit { vd := q.vd, window := some (g, p.dwnum), addr := 0, slot := 0 } false a p.dsize p.progress m with
    | .ok s => s
    | .error _ => s) s
  (s, p.moved m p.elements, m.failed)

/-- MCAST. -/
def execMcast (q : QueueId) (n : Nat) (s : State) : Host.Outcome State Fault Refusal :=
  .next (s.packetStep q (fun p => p.type == 4) (fun s p p' => s.copyLines q.vd p p.progress p'.progress) (State.mcastStep q n))

/-! ### FILLA and FILLB (R171 to R174) -/

/-- floor(log2 |x|) of a finite value that is not zero. -/
def numLog (x : Num) : Option Int :=
  match x with
  | .fin _ m e => if m = 0 then none else some ((log2 m : Int) + e)
  | _ => none

/-- EB of an entry's elements (R173). -/
def expBound (f : Format) (els : List Nat) : Int :=
  els.foldl (fun e v => match numLog (decodeNum f v) with | some x => max e x | none => e) (-2048)

/-- The 32 × K elements of a FIFO entry, with flags, or the access that failed. -/
def State.panelRead (s : State) (vd : Nat) (p : Packet) : Except (Bad × Nat) (List Nat × Nat) :=
  let k := classK p.cls
  (List.range (32 * k)).foldl (fun acc i =>
    match acc with
    | .error e => .error e
    | .ok (els, fl) =>
      if i / k < p.rows ∧ i % k < p.kcnt then
        match s.panelElem vd p false p.progress (i / k) (i % k) with
        | .error e => .error e
        | .ok (v, f) => .ok (els ++ [v.getD (panelFormat p.cls false).nanCode], fl ||| f)
      else .ok (els ++ [0], fl)) (.ok ([], 0))

/-- Push panels into the FIFO of the group's matrix unit, up to a number of them: a context that has exited ends the packet
with BADDST, and a full FIFO holds it with QSTATE 3. -/
def State.pushPanels (q : QueueId) : Nat → State → Packet → PacketStep
  | 0, s, p => (s, p, none)
  | n + 1, s, p =>
    match p.group.bind s.group? with
    | none => (s, { p with code := some stBADDST }, none)
    | some g =>
      if !g.fifoLive then (s, { p with code := some stBADDST }, none)
      else
        let fifo := if p.type = 2 then g.munit.fa else g.munit.fb
        if 16 ≤ fifo.length then (s.setQstate q 3, p, none)
        else
          match s.panelRead q.vd p with
          | .error e => (s, p, some (e.1, e.2, false))
          | .ok (els, fl) =>
            let e : Panel := { cls := p.cls, eb := expBound (panelFormat p.cls false) els, els := els }
            let u := if p.type = 2 then { g.munit with fa := g.munit.fa ++ [e] } else { g.munit with fb := g.munit.fb ++ [e] }
            let s := (s.setGroup { g with munit := u }).setQstate q 0
            let p := { p with progress := p.progress + 1, done := p.done + 32 * classK p.cls, flags := p.flags ||| fl }
            if p.progress = p.npanel then (s, { p with code := some stDONE }, none) else State.pushPanels q n s p

/-- Write whole panels into the ring slot (R174). -/
def State.slotPanels (q : QueueId) (n : Nat) (s : State) (p : Packet) : PacketStep :=
  let per := p.rows * p.kcnt
  let m := gather (fun e => s.panelElem q.vd p true (e / per) (e % per / p.kcnt) (e % p.kcnt)) p.panelSize (p.progress * per)
    (stepCount (p.npanel - p.progress) n * per)
  match s.slotData p with
  | .error f => (s, p, some f)
  | .ok (r, at_) =>
    let a := at_ + p.panelSize * (p.progress * per)
    match s.deposit r false a p.panelSize (p.progress * per) m with
    | .ok s =>
      let whole := m.count / per
      let p := { p with progress := p.progress + whole, done := p.done + whole * per, flags := p.flags ||| m.flags }
      (s, if p.progress = p.npanel then { p with code := some stDONE } else p, m.failed)
    | .error b => (s, p, some (b, s.badAddr r a m.bytes.length, true))

/-- A step of a FILLA or FILLB. -/
def State.fillStep (q : QueueId) (n : Nat) (s : State) (p : Packet) : PacketStep :=
  if p.dslot then s.slotPanels q n p else State.pushPanels q (stepCount (p.npanel - p.progress) n) s p

/-- The lines that a step of a FILLA or FILLB reads and writes; one for a FIFO sets QSTATE, to 3 where it waits for room. -/
def State.fillReach (q : QueueId) (s : State) (p p' : Packet) : List Nat :=
  let n := p'.progress - p.progress
  let per := p.rows * p.kcnt
  ((List.range (n * per)).flatMap fun e =>
    let a := e % per / p.kcnt
    (if p.ind then [layAddr p.layoutA [p.panelRow a]] else []) ++ elemLine p.data (s.panelCoords q.vd p (p.progress + e / per) a (e % p.kcnt))) ++
  (if p.dslot then destLines (s.slotData p) (p.panelSize * (p.progress * per)) (p.panelSize * (n * per))
    else if p'.code.isSome && n == 0 then [] else s.qstateLines q (if n = 0 then 3 else 0))

/-- FILLA. -/
def execFilla (q : QueueId) (n : Nat) (s : State) : Host.Outcome State Fault Refusal :=
  .next (s.packetStep q (fun p => p.type == 2) (State.fillReach q) (State.fillStep q n))

/-- FILLB. -/
def execFillb (q : QueueId) (n : Nat) (s : State) : Host.Outcome State Fault Refusal :=
  .next (s.packetStep q (fun p => p.type == 3) (State.fillReach q) (State.fillStep q n))

/-- FIFO_PANEL_PUSH: the next panel of the running FILLA or FILLB enters its FIFO. -/
def execFifoPanelPush (q : QueueId) (s : State) : Host.Outcome State Fault Refusal :=
  .next (s.packetStep q (fun p => (p.type == 2 || p.type == 3) && !p.dslot) (State.fillReach q) (State.pushPanels q 1))

/-! ### CKPT (R178) -/

/-- The bytes of a chunk as they stand, poisoned or not (log 138), with the places of the poisoned pieces in it. -/
def State.chunkRead (s : State) (vd va n : Nat) : Except (Bad × Nat) (List Byte × List Nat) :=
  (linePieces va n).foldl (fun acc w =>
    match acc with
    | .error e => .error e
    | .ok (bs, bad) =>
      match s.place vd w.1 .read with
      | .error b => .error (b, w.1)
      | .ok p =>
        let p := s.served vd p false
        .ok (bs ++ s.lineBytes p (w.1 % 128) w.2, if (s.readSyndrome p).isSome then (w.1 - va) :: bad else bad)) (.ok ([], []))

def Packet.ckSrc (p : Packet) : Nat := bitsOf p.bits 128 48
def Packet.ckLen (p : Packet) : Nat := bitsOf p.bits 176 48
def Packet.ckDst (p : Packet) : Nat := bitsOf p.bits 224 48
def Packet.ckDig (p : Packet) : Nat := bitsOf p.bits 272 48
def Packet.ckSet (p : Packet) : Nat := bitsOf p.bits 320 16
def Packet.ckChunks (p : Packet) : Nat := (p.ckLen + 65535) / 65536

/-- The marker of a chunk. -/
def Packet.ckMark (p : Packet) (c : Nat) : Nat := p.ckDst + 65536 * p.ckChunks + 64 * c

/-- A valid marker of the set holds a chunk's digest; one that is poisoned does not (log 138). -/
def State.ckptSame (s : State) (q : QueueId) (p : Packet) (c : Nat) (digest : List Byte) : Bool :=
  match s.readVa q.vd (p.ckMark c) 64 with
  | .ok m => decide (m.take 32 = digest) && leValue ((m.drop 32).take 2) == p.ckSet && ((m.getD 34 0#8).getLsbD 0)
  | .error _ => false

/-- The lines that chunks of a CKPT read and write; a chunk that is skipped writes none of its copy. -/
def State.ckptReach (q : QueueId) (s : State) (p p' : Packet) : List Nat :=
  (List.range (p'.progress - p.progress)).flatMap fun i =>
    let c := p.progress + i
    let n := min 65536 (p.ckLen - 65536 * c)
    let copied := match s.chunkRead q.vd (p.ckSrc + 65536 * c) n with | .ok (bs, _) => !s.ckptSame q p c (sha256 bs) | .error _ => true
    (linePieces (p.ckSrc + 65536 * c) n).map (·.1) ++ [p.ckDig + 32 * c, p.ckMark c] ++
      (if copied then (linePieces (p.ckDst + 65536 * c) n).map (·.1) else [])

/-- One chunk: its digest, over the bytes as they stand, is written, and unless a valid marker of the set holds the same digest, the chunk
and then its marker; a chunk that is skipped sets no POISON (log 138). -/
def State.ckptChunk (q : QueueId) (s : State) (p : Packet) : PacketStep :=
  let c := p.progress
  let src := p.ckSrc + 65536 * c
  let dst := p.ckDst + 65536 * c
  let mark := p.ckMark c
  let n := min 65536 (p.ckLen - 65536 * c)
  let next (p : Packet) : Packet :=
    let p := { p with progress := c + 1 }
    if p.progress = p.ckChunks then { p with code := some stDONE } else p
  let tier2 (va : Nat) : Bool := match s.place q.vd va .write with | .ok pl => decide (pl.space = .tier2) | .error _ => true
  let mem : RingSlot := { vd := q.vd, window := none, addr := 0, slot := 0 }
  if !tier2 dst || !tier2 mark then (s, { p with code := some stBADDST }, none)
  else
    match s.chunkRead q.vd src n with
    | .error e => (s, p, some (e.1, e.2, false))
    | .ok (bs, bad) =>
      let digest := sha256 bs
      match s.writeVa q.vd (p.ckDig + 32 * c) digest with
      | .error b => (s, p, some (b, p.ckDig + 32 * c, true))
      | .ok s =>
        let same := s.ckptSame q p c digest
        match s.readVa q.vd mark 64 with
        | .error (.miss g t) => (s, p, some (.miss g t, mark, false))
        | .error (.fault w) => (s, p, some (.fault w, mark, false))
        | _ =>
          if same then (s, next { p with flags := p.flags ||| flSKIP }, none)
          else
            match s.writeVa q.vd dst bs with
            | .error b => (s, p, some (b, s.badAddr mem dst n, true))
            | .ok s =>
              let s := bad.foldl (fun s k => s.taintAt mem false (dst + k) 1) s
              match s.writeVa q.vd mark (digest ++ leBytes 2 p.ckSet ++ [1#8] ++ List.replicate 29 0#8) with
              | .error b => (s, p, some (b, mark, true))
              | .ok s => (s, next { p with done := p.done + 1, flags := p.flags ||| (if bad.isEmpty then 0 else flPOISON) }, none)

/-- Chunks, up to a number of them. -/
def State.ckptChunks (q : QueueId) : Nat → State → Packet → PacketStep
  | 0, s, p => (s, p, none)
  | n + 1, s, p =>
    match s.ckptChunk q p with
    | (s, p, none) => if p.code.isSome then (s, p, none) else State.ckptChunks q n s p
    | r => r

/-- CKPT. -/
def execCkpt (q : QueueId) (n : Nat) (s : State) : Host.Outcome State Fault Refusal :=
  .next (s.packetStep q (fun p => p.type == 6) (State.ckptReach q) fun s p => State.ckptChunks q (stepCount (p.ckChunks - p.progress) n) s p)

/-! ### MARK and the completion of packets (R163, R177, R179, R182) -/

/-- Slot j was taken before slot k. -/
def slotBefore (j k : Nat) : Bool := decide (j ≠ k) && decide (sub32 k j < 2 ^ 31)

/-- Every earlier packet of the queue has completed: none is parked, at the head, or a launch that has not ended. -/
def State.earlierDone (s : State) (q : QueueId) (p : Packet) : Bool :=
  !(s.side.any fun e => decide (e.2.1 = q) && slotBefore e.2.2.slot p.slot) &&
  (match s.queue? q with
    | some x => x.pending.isEmpty && (match x.head with | some h => !slotBefore h.slot p.slot | none => true)
    | none => true)

/-- A step of a MARK. -/
def State.markStep (q : QueueId) (s : State) (p : Packet) : PacketStep :=
  let mva := bitsOf p.bits 128 48
  if !s.earlierDone q p then (s, p, none)
  else if mva = 0 then (s, { p with code := some stDONE }, none)
  else if q.kind = .peerPort then
    let s := s.popChoice
    match s.oracle.headD 0 with
    | 0 => (s.setQstate q 0, { p with code := some stDONE }, none)
    | 1 => (s.setQstate q 0, p, some (.fault none, mva, true))
    | _ => (s.setQstate q 4, p, none)
  else
    match s.writeVa q.vd mva (leBytes 8 (bitsOf p.bits 192 64)) with
    | .ok s => (s, { p with code := some stDONE, progress := 1 }, none)
    | .error b => (s, p, some (b, mva, true))

/-- The line that a step of a MARK writes. -/
def State.markReach (q : QueueId) (s : State) (p _p' : Packet) : List Nat :=
  if q.kind = .peerPort ∨ bitsOf p.bits 128 48 = 0 ∨ !s.earlierDone q p then [] else [bitsOf p.bits 128 48]

/-- MARK. -/
def execMark (q : QueueId) (s : State) : Host.Outcome State Fault Refusal :=
  .next (s.packetStep q (fun p => p.type == 7) (State.markReach q) (State.markStep q))

/-- A packet leaves its queue. -/
def State.finishPacket (s : State) (q : QueueId) (p : Packet) (side : Bool) : State :=
  let s := (s.putCurrent q side none).packetGone q p
  if side then s else s.setQstate q 0

/-- What the completion of a packet comes to: it is done, or an access misses the second stage, with its own status written or not. -/
inductive Completed where
  | done (s : State)
  | waits (s : State) (reported : Bool) (gpa : Nat) (table : Bool) (va : Nat) (wr : Bool)
  deriving DecidableEq, Repr

/-- The own slot of a packet could not be written, or CPTR advanced past it: a miss is waited for, and else the packet is done, and
counted as an error that had no slot to go to (R163, R182; log 140). -/
def State.unreported (s : State) (q : QueueId) (p : Packet) (side reported : Bool) (f : Failed) : Completed :=
  match f with
  | (.miss g t, va, wr) => .waits s reported g t va wr
  | (b, _, wr) => .done (((s.logBad q wr b).countError q).finishPacket q p side)

/-- Complete a packet: the receivers' slots, then its own, whose status comes before the advance of CPTR; or ERRCNT for an error
without a ring (R163, R182). -/
def State.completePacket (s : State) (q : QueueId) (p : Packet) (side : Bool) (code : Nat) : Completed :=
  let c := if code = stDONE ∧ p.flags ≠ 0 then stDONEF else code
  let s := p.receivers.foldl (fun s r =>
    match s.completeSlot q r c p.flags p.tag p.done p.fva with
    | .ok s => s
    | .error (b, _, wr) => s.logBad q wr b) s
  match p.ring with
  | none => .done ((if c = stDONE ∨ c = stDONEF then s else s.countError q).finishPacket q p side)
  | some r =>
    match (if p.reported then .ok s else s.writeStatus r c p.flags p.tag p.done p.fva) with
    | .error f => s.unreported q p side false f
    | .ok s =>
      match s.advanceCptr q r false with
      | .error f => s.unreported q p side true f
      | .ok s => .done (s.finishPacket q p side)

/-- What a COPY under SHADOW moves is read and written as it completes, into the shadow as it is now, with the flags that its elements set
(R167 to R169, R322). -/
def State.storeShadow (s : State) (q : QueueId) (p : Packet) : Except Failed (State × Packet) :=
  if p.type ≠ 1 ∨ !p.shadow ∨ p.done = 0 ∨ p.reported then .ok (s, p)
  else
    let m := gather (s.copyElem q.vd p) p.dsize 0 p.done
    match m.failed, s.copyDest q p with
    | some f, _ | none, .error f => .error f
    | none, .ok (r, at_) =>
      match s.deposit r true at_ p.dsize 0 m with
      | .ok s => .ok (s, { p with flags := p.flags ||| m.flags })
      | .error b => .error (b, s.badAddr r at_ m.bytes.length true, true)

/-- The lines that a packet's completion reaches. -/
def State.completeLines (s : State) (q : QueueId) (p : Packet) : List Nat :=
  (if p.type = 1 ∧ p.shadow then s.copyLines q.vd p 0 p.done ++ destLines (s.copyDest q p) 0 (p.dsize * p.done) else []) ++
    ((p.ring.toList ++ p.receivers).flatMap s.ringLines) ++ [q.desc]

/-- A packet's completion, once it may reach its lines. What a COPY under SHADOW writes stands only with its status: where that misses,
nothing has been written (R322). -/
def State.report (s : State) (q : QueueId) (p : Packet) (side : Bool) (code : Nat) : State :=
  match s.storeShadow q p with
  | .error (.miss g t, va, wr) => s.queueMiss q g t va wr (.run p.slot va)
  | .error (b, va, wr) => (s.logBad q wr b).putCurrent q side (some { p with code := some stFAULT, fva := va, done := 0, progress := 0 })
  | .ok (s1, p1) =>
    match s1.completePacket q p1 side code with
    | .done s2 => s2
    | .waits s2 reported g t va wr =>
      if !reported && p.type == 1 && p.shadow then s.queueMiss q g t va wr (.complete p.slot)
      else (s2.putCurrent q side (some { p1 with reported := reported, receivers := [] })).queueMiss q g t va wr (.complete p.slot)

/-- PACKET_COMPLETE. A packet that the checks at its start refuse completes with their code; a MARK only after every earlier
packet of its queue, unless it is malformed (R163, R179). -/
def execPacketComplete (q : QueueId) (s : State) : Host.Outcome State Fault Refusal :=
  let s := (((s.queue? q).map (·.pending)).getD []).foldl State.settleLaunch s
  let s := if s.serverStopped q then s else (s.startSide q).startHead q
  .next (match s.queue? q with
    | none => s
    | some x =>
      if x.miss.isSome || s.serverStopped q then s
      else
        match s.current q with
        | none => s
        | some (p, side) =>
          match p.code with
          | none => s
          | some c =>
            if p.type = 7 ∧ c ≠ stBADPKT ∧ !s.earlierDone q p then s
            else
            let gids := p.receivers.filterMap fun r => r.window.map (·.1)
            s.serve q (s.completeLines q p) fun s => (x.group.toList ++ gids).foldl State.settle (s.report q p side c).popChoice)

end Sys2Proof.Machine
end

