-- ==== Sys2Proof/Machine/Ferry.lean ====
section
/-!
DEFINITION. Events of memory survival and the survival commands: write-backs and check deltas, the Ferry's steps and
hand-offs, scrub, failures inside stacks, recomputation, clearing, epochs, and SVCMD (06 R153; 22 R398 to R412).
-/
namespace Sys2Proof.Machine

/-! ### Write-backs and deltas (R398) -/

/-- WRITE_BACK: a home slice writes a dirty line back, and drops the line when it evicts it. From 2^48 on, `line` counts
the addresses of tier-2 lines. -/
def execWriteBack (line : Nat) (evict : Bool) (s : State) : Host.Outcome State Fault Refusal :=
  let sp : Space := if line < 2 ^ 48 then .device else .tier2
  let addr := line % 2 ^ 48 / 128 * 128
  let s := s.writeBackLine sp addr
  .next (if evict && !s.isDirty sp addr then s.uncache sp addr else s)

/-- CHECK_DELTA: a delta in flight is applied at the home of P (even n) or of Q (odd n), and acknowledged. -/
def execCheckDelta (n : Nat) (s : State) : Host.Outcome State Fault Refusal :=
  let ds := s.sv.deltas.mapIdx fun i (d : Delta) => if i = n / 2 then { d with waits := d.waits.filter (· != 16 + n % 2) } else d
  .next { s with sv := { s.sv with deltas := ds.filter fun d => !d.waits.isEmpty } }

/-! ### The Ferry's moves (R401 to R403) -/

/-- The home slice of a line after its region's move. -/
def State.newSlice (s : State) (r : Region) (hpa : Nat) : Nat :=
  s.sliceUnder r.nhmap ((s.spread r.nspread).placeOf (stripeOf hpa) (lineIn hpa)).1

/-- A slice's tag floor rises to at least another's (R403). -/
def State.raiseFloor (s : State) (new old : Nat) : State :=
  { s with sv := { s.sv with
      floors := assocSet s.sv.floors new (laterTag (assocGet s.sv.floors old 0) (assocGet s.sv.floors new 0)) } }

/-- The dirty lines of a stripe that are to be handed to another slice. -/
def State.toHand (s : State) (r : Region) (hpa : Nat) : List Dirty :=
  s.dirty.filter fun d => decide (d.space = .device) && stripeOf d.addr == stripeOf hpa && d.slice != s.newSlice r d.addr &&
    !(s.sv.handoffs.any fun h => h.1 == d.addr)

/-! ### Home maps (R17, R400, R429) -/

/-- The die that homes a stack under a home map. -/
def State.homeOf (s : State) (map stack : Nat) : Nat :=
  match (s.sv.hmaps.find? fun m => m.num == map).bind fun m => m.moved.find? fun p => p.1 == stack with
  | some (_, d) => d
  | none => stack / 4

/-- A home map with given moves, under the number the Pilot keeps it by: a new one takes the lowest of 64 that no region uses (the
spec gives no numbering, log 102). -/
def State.homeMapOf (s : State) (moved : List (Nat × Nat)) : State × Nat :=
  match s.sv.hmaps.find? fun m => decide (m.moved = moved) with
  | some m => (s, m.num)
  | none =>
    let used (n : Nat) : Bool := n == 0 || s.sv.regions.any fun r => r.hmap == n || r.nhmap == n
    let n := ((List.range 64).find? fun n => !used n).getD 63
    ({ s with sv := { s.sv with hmaps := { num := n, moved := moved } :: s.sv.hmaps.filter fun m => m.num != n } }, n)

/-- The moves of a home map that stand: those of the stacks whose primary die is not TRUSTED. -/
def State.homeward (s : State) (map : Nat) : List (Nat × Nat) :=
  ((List.range 12).map fun k => (k, s.homeOf map k)).filter fun p => p.2 != p.1 / 4 && decide ((s.die (p.1 / 4)).state ≠ .trusted)

/-- A region that lies under moves which need not stand any longer begins to move home (R402, R429). -/
def State.goHome (s : State) (n : Nat) : State :=
  let r := s.region n
  if (r.state ≠ .normal ∧ r.state ≠ .degraded) ∨ (List.range 12).all fun k => s.homeOf r.hmap k == k / 4 || (s.homeward r.hmap).any fun p => p.1 == k then s
  else
    let q := s.homeMapOf (s.homeward r.hmap)
    q.1.setRegion { r with state := .migrating, nspread := r.spread, nhmap := q.2, cursor := 0, during := [] }

/-! ### Regions of moored devices (R436) -/

/-- A spread that the device's moored regions may share. -/
def Spread.sharable (x : Spread) : Bool := !x.moored.isEmpty && x.lost.isEmpty

/-- The regions on a moored spread, 56 to 63, or on their way to it. -/
def State.mooredOn (s : State) (n : Nat) : Nat :=
  (s.sv.regions.filter fun r => decide (r.state ≠ .retired) && (r.spread == n || (decide (r.state = .migrating) && r.nspread == n))).length

/-- Channels for a moored spread: two on each of nine stacks, none with a unit of it retired, and none of another spread in use (R436;
which of them they are is the model's, log 62); none where there are not so many. -/
def State.mooredChannels (s : State) (n : Nat) : Option (List Nat) :=
  let taken := ((List.range 8).filter fun j => decide (56 + j ≠ n) && decide (0 < s.mooredOn (56 + j))).flatMap fun j => (s.spread (56 + j)).moored
  let free (c : Nat) : Bool := !taken.contains c && !(s.sv.retired.any fun u => unitIn (.channel (c / 32) (c % 32)) u || unitIn u (.channel (c / 32) (c % 32)))
  let pairs := (List.range 12).filterMap fun k =>
    match ((List.range 32).map fun c => 32 * k + c).filter free with
    | a :: b :: _ => some [a, b]
    | _ => none
  if pairs.length < 9 then none else some (pairs.take 9).flatten

/-- The regions that a device's range entries cover, and that hold memory. -/
def VDev.regionsHeld (v : VDev) (s : State) : List Nat := (List.range 4096).filter fun n => v.covers n && decide ((s.region n).state ≠ .retired)

/-- A device of class W2 that is moored, or on its way there, covers the region. -/
def State.keptMoored (s : State) (n : Nat) : Bool :=
  (List.range 64).any fun d => (s.vd d).cls == 2 && decide ((s.vd d).moor = .moored ∨ (s.vd d).moor = .mooring) && (s.vd d).covers n

/-- A region that lies on a moored spread, and that no moored device keeps there, begins to move back to the units in service. -/
def State.spreadBack (s : State) (n : Nat) : State :=
  let r := s.region n
  if r.spread < 56 ∨ r.state ≠ .normal ∨ s.keptMoored n then s
  else
    match s.spreadWithout s.sv.retired with
    | some q => q.1.setRegion { r with state := .migrating, nspread := q.2, nhmap := r.hmap, cursor := 0, during := [] }
    | none => s

/-- The regions on a moored spread all belong to MOORED W2 devices, and none is on its way to it (R436). -/
def State.quiet (s : State) (x : Nat) : Bool :=
  let on := s.sv.regions.filter fun r => decide (r.state ≠ .retired) && (r.spread == x || (decide (r.state = .migrating) && r.nspread == x))
  !on.isEmpty && on.all fun r => r.spread == x && !(decide (r.state = .migrating) && r.nspread == x) &&
    (List.range 64).any fun d => (s.vd d).cls == 2 && decide ((s.vd d).moor = .moored) && (s.vd d).covers r.num

/-- Channels of quiet moored spreads enter self-refresh, and those that have left it for an access return, unless one waits for them (R25,
R436; they return as the epoch advances, log 62). -/
def State.restChannels (s : State) : State :=
  if s.sv.spreads.all fun x => x.moored.isEmpty then s
  else
    let awaited := s.sv.called ++ (s.reqs.filter fun r => decide (r.place.space = .device)).map fun r =>
      let p := s.served r.vd r.place false
      s.channel p.addr (lineIn p.addr)
    let cs := ((List.range 8).filter fun k => s.quiet (56 + k)).flatMap fun k => (s.spread (56 + k)).moored
    { s with sv := { s.sv with selfRefresh := ((cs.filter fun c => !awaited.contains c) ++ s.sv.selfRefresh).eraseDups } }

/-- The region's move has come to its end (R401, R406, R429, R436): where a unit of its new spread was retired during it, it moves once
more, if the spare holds its lines and the units that are left hold a stripe; else it is NORMAL, or DEGRADED while lines are lost. -/
def State.endMove (s : State) (r : Region) : State :=
  let done := { r with spread := r.nspread, hmap := r.nhmap, cursor := 0, during := [] }
  let x := s.spread r.nspread
  match (if r.during.isEmpty || r.short then none else s.spreadAway x r.during s.sv.retired) with
  | some q => q.1.setRegion { done with nspread := q.2 }
  | none =>
    if s.lostOf { done with state := .normal } = 0 then
      (((s.setRegion { done with state := .normal, short := false }).spreadBack r.num).goHome r.num).restChannels
    else (s.setRegion { done with state := .degraded, short := true }).goHome r.num

/-- The locked stripe moves: its 18 lines are read, corrected, rebuilt or poisoned, and written at their new places, the new homes take
over, and the stripe unlocks. -/
def State.moveStripe (s : State) (region hpa : Nat) : State :=
  let s := (List.range 18).foldl (fun s k => s.readStored hpa k) s
  let r := s.region region
  let s := (List.range 16).foldl (fun s k =>
    let a := hpa + 128 * k
    let old := s.sliceOf .device a
    let new := s.newSlice r a
    if old = new then s
    else
      let s := s.raiseFloor new old
      if s.isDirty .device a then s else s.uncache .device a) s
  let r := { r with cursor := r.cursor + 1 }
  let s := ({ s with sv := { s.sv with
    rebuilt := s.sv.rebuilt.filter (fun n => n / 18 != stripeOf hpa), locked := s.sv.locked.filter (· != stripeOf hpa) } } : State).setRegion r
  (if r.cursor = 131072 then s.endMove r else s).checkAdv4

/-- The Ferry waits for the channels of the stripe, and of its new places, that are in self-refresh. -/
def State.ferryAsleep (s : State) (hpa : Nat) : List Nat :=
  if s.sv.selfRefresh.isEmpty then []
  else
    let x := s.spread (s.region (regionOf hpa)).nspread
    (((List.range 18).map (s.channel hpa)) ++ (List.range 18).map fun k => (x.placeOf (stripeOf hpa) k).1).filter s.sv.selfRefresh.contains

/-- FERRY_STEP: the step of a MIGRATING region's next stripe: it locks the stripe; sends its dirty lines to their new homes
once no delta is in flight; and moves it once they have arrived. -/
def execFerryStep (region : Nat) (s : State) : Host.Outcome State Fault Refusal :=
  let r := s.region region
  let hpa := region * 2 ^ 28 + r.cursor * 2048
  let st := stripeOf hpa
  .next (if r.state ≠ .migrating ∨ 4096 ≤ region then s
    else if !(s.ferryAsleep hpa).isEmpty then { s with sv := { s.sv with called := (s.ferryAsleep hpa ++ s.sv.called).eraseDups } }
    else if !s.sv.locked.contains st then { s with sv := { s.sv with locked := st :: s.sv.locked } }
    else if s.stripeBusy hpa then s
    else
      match s.toHand r hpa with
      | [] => if s.sv.handoffs.any fun h => stripeOf h.1 == st then s else s.moveStripe region hpa
      | ds => ds.foldl (fun s d =>
          let new := s.newSlice r d.addr
          let s := s.raiseFloor new d.slice
          { s with sv := { s.sv with handoffs := s.sv.handoffs ++ [(d.addr, d.slice, new)] } }) s)

/-- A line that is being handed over arrives at its new home, with its poison, and takes the new slice's raised floor as its latest tag. -/
def State.arriveHome (s : State) (h : Nat × Nat × Nat) : State :=
  let s := s.raiseFloor h.2.2 h.2.1
  let s := s.setTag .device h.1 (assocGet s.sv.floors h.2.2 0)
  { s with
    dirty := s.dirty.map fun (d : Dirty) => if d.space = .device ∧ d.addr = h.1 then { d with slice := h.2.2 } else d
    sv := { s.sv with handoffs := s.sv.handoffs.filter fun g => g.1 != h.1 } }

/-- HOME_HANDOFF: a dirty line arrives at its new home. -/
def execHomeHandoff (line : Nat) (s : State) : Host.Outcome State Fault Refusal :=
  .next (match s.sv.handoffs.find? fun h => h.1 == line with
    | none => s
    | some h => s.arriveHome h)

/-! ### Scrub and errors (R408 to R411) -/

/-- The next line of the patrol from a number of lines on, 18 to a stripe, or none at the end of a pass. -/
def State.nextScrub (s : State) (pos : Nat) : Option Nat :=
  if (s.region (pos / regionLines)).state ≠ .retired ∧ pos < 4096 * regionLines then some pos
  else ((List.range 4096).find? fun n => decide (pos < n * regionLines) && decide ((s.region n).state ≠ .retired)).map (· * regionLines)

/-- SCRUB_LINE: the patrol reads a line, 18 × stripe + its number in the stripe, and corrects or rebuilds it; at the end of a pass PASSES
advances. -/
def execScrubLine (line : Nat) (s : State) : Host.Outcome State Fault Refusal :=
  let hpa := line / 18 * 2048
  .next (if (s.region (regionOf hpa)).state = .retired ∨ 4096 * regionLines ≤ line then s
    else if s.stripeLineBlocked hpa (line % 18) then
      if s.asleep hpa (line % 18) then { s with sv := { s.sv with called := (s.channel hpa (line % 18) :: s.sv.called).eraseDups } } else s
    else
      let s := s.healLine hpa (line % 18)
      if (s.nextScrub s.sv.scrubPos).getD 0 ≠ line then s
      else
        match s.nextScrub (line + 1) with
        | some n => { s with sv := { s.sv with scrubPos := n } }
        | none => { s with sv := { s.sv with scrubPos := 0, scrub := s.sv.scrub + 0x10000#32 } })

/-- ERROR_COUNTER_HALVING: every counter halves at the end of a WINDOW. -/
def execErrorCounterHalving (s : State) : Host.Outcome State Fault Refusal :=
  .next { s with sv := { s.sv with counters := (s.sv.counters.map fun c => (c.1, c.2 / 2)).filter fun c => c.2 != 0 } }

/-- HBM_RETRY_REISSUE: a request that collided with a refresh is answered RETRY and sent again, at most 4 times. -/
def execHbmRetryReissue (id : Nat) (s : State) : Host.Outcome State Fault Refusal :=
  let live := s.sv.retries.filter fun r => s.outstanding r.1
  let n := assocGet live id 0
  .next (if s.outstanding id && decide (n < 4) then { s with sv := { s.sv with retries := assocSet live id (n + 1) } }
    else { s with sv := { s.sv with retries := live } })

/-- ALERT: the channel's controller replays its last commands, which stores the same bytes again; an ALERT that recurs, or
the eighth within a second, retires the channel and queues advisory 3. -/
def execAlert (channel : Nat) (recurs : Bool) (s : State) : Host.Outcome State Fault Refusal :=
  let recent := s.sv.alerts.filter fun a => decide (s.clock < a.2 + 1200000000)
  let mine := (recent.filter fun a => a.1 == channel).length + 1
  let u : MemUnit := .channel (channel / 32) (channel % 32)
  let s := { s with sv := { s.sv with alerts := (channel, s.clock) :: recent } }
  .next (if (recurs || decide (8 ≤ mine)) && !s.isRetired u then
      let dest := s.unitDevices u
      (s.failUnit u).adviseDevices 3 dest.contains
    else s)

/-- UNIT_FAILURE: a unit fails outright and is retired; a row is repaired. -/
def execUnitFailure (u : MemUnit) (s : State) : Host.Outcome State Fault Refusal :=
  .next (match u with
    | .row .. => s.repairRowNow u
    | _ => s.failUnit u)

/-! ### Recomputation (R399, R405) -/

/-- The data lines of a stripe that a recomputation cannot read: those that cannot be read from their places, but for what their slices hold,
where that takes part too (R399). -/
def State.unreadData (s : State) (hpa : Nat) (held : Bool) : List Nat :=
  (List.range 16).filter fun k => if held then s.lineUnread hpa k else s.lineLost hpa k && !s.clearPending (hpa + 128 * k)

/-- The check homes read the data lines of a stripe and recompute its checks. The lines that they cannot read are poisoned, but for what
their slices hold, and the checks stay unreliable; where they can read them all, the checks are right again, and stand for the lines that
have no place. -/
def State.recompute (s : State) (hpa why : Nat) (held : Bool) : State :=
  let s := (List.range 16).foldl (fun s k => s.correct hpa k) s
  let unread := s.unreadData hpa held
  let s := unread.foldl (fun s k => if s.lineUnread hpa k then
      s.setPoison .device (hpa + 128 * k) (deviceSyndrome why (s.lostLines hpa).length (s.channel hpa k)) else s) s
  let st := stripeOf hpa
  let stored (d : Dirty) : Bool := held && unread.isEmpty && decide (d.space = .device) && s.placeless d.addr && stripeOf d.addr == st
  let s := { s with
    dirty := s.dirty.filter fun d => !stored d
    sv := { s.sv with
      stale := s.sv.stale.filter (· != st)
      unreliable := if unread.isEmpty then s.sv.unreliable.filter (· != st) else if s.sv.unreliable.contains st then s.sv.unreliable else st :: s.sv.unreliable } }
  if unread.isEmpty then (s.wholeLine hpa 16).wholeLine hpa 17 else s

/-- CHECK_RECOMPUTE: the check homes recompute P and Q of a stale stripe from its data lines as HBM stores them, and drop what deltas of it
arrive (R405), or of an unreliable stripe, once every poisoned line of it has been written whole (R399). -/
def execCheckRecompute (stripe : Nat) (s : State) : Host.Outcome State Fault Refusal :=
  let hpa := stripe * 2048
  .next (if s.sv.stale.contains stripe then
      ({ s with sv := { s.sv with deltas := s.sv.deltas.filter fun d => d.stripe != stripe } } : State).recompute hpa 3 false
    else if s.sv.deltas.any fun d => d.stripe == stripe then s
    else if s.sv.unreliable.contains stripe && !((List.range 16).any fun k => (s.poison? .device (hpa + 128 * k)).isSome) then s.recompute hpa 0 true
    else s)

/-! ### Clearing (R412) -/

/-- Units become clear-pending: from here on every line of them reads zero under any key until it is written. -/
def State.clearUnits (s : State) (first count : Nat) : State :=
  let a := first * unit2M
  let n := count * unit2M
  let out (x : Nat) : Bool := !(decide (a ≤ x) && decide (x < a + n))
  { s with
    mem := s.mem.clear a n
    dirty := s.dirty.filter fun d => decide (d.space ≠ .device) || out d.addr
    poisoned := s.poisoned.filter fun p => decide (p.1 ≠ .device) || out p.2.1
    roc := s.roc.filter fun r => decide (r.place.space ≠ .device) || out r.place.addr
    trust := { s.trust with sealed := s.trust.sealed.filter fun p => out p.1 }
    sv := { s.sv with
      weak := s.sv.weak.filter fun w => decide (16 ≤ w.1 % 18) || out (w.1 / 18 * 2048 + 128 * (w.1 % 18))
      clearing := if count = 0 then s.sv.clearing else s.sv.clearing ++ [{ first := first, count := count, swept := 0, written := [] }] } }

/-- The sweep of a clear-pending memory reaches n more lines (0: all), and stores those that nothing has written as zeros. -/
def State.sweep (s : State) (c : Clearing) (n : Nat) : State :=
  let c' := { c with swept := if n = 0 then c.count * 16384 else c.swept + n }
  let reached := (List.range (min c'.swept (c.count * 16384) - c.swept)).map fun k => 16384 * c.first + c.swept + k
  let s := if s.unhurt then s else
    (reached.filter fun l => !c.written.contains l).foldl (fun s l => s.wholeLine (128 * l) (lineIn (128 * l))) s
  let left := { c' with written := c.written.filter fun l => decide (16384 * c.first + c'.swept ≤ l) }
  let next := if c.count * 16384 ≤ c'.swept then [] else [left]
  { s with sv := { s.sv with clearing := s.sv.clearing.flatMap fun d => if d = c then next else [d] } }

/-- CLEAR_SWEEP: the sweep reaches n more lines (0: all) of the clear-pending memory that begins at a unit. Every line of it
has read zero since it became clear-pending; memory whose sweep ends leaves the map. -/
def execClearSweep (unit n : Nat) (s : State) : Host.Outcome State Fault Refusal :=
  .next ((s.sv.clearing.filter fun c => c.first == unit).foldl (fun s c => s.sweep c n) s)

/-- Another period of 2^17 clocks has passed (R153). -/
def State.epochDue (s : State) : Bool := decide ((s.epoch + 1) * 2 ^ 17 ≤ s.clock)

/-- EPOCH_TICK: the epoch advances, once for each period (R153). Channels that left self-refresh for an access return with it (log 62). -/
def execEpochTick (s : State) : Host.Outcome State Fault Refusal :=
  .next (if s.epochDue then ({ s with epoch := s.epoch + 1 } : State).restChannels else s)

/-! ### SVCMD (R406, R407) -/

def State.svArg (s : State) (n : Nat) : Nat := (s.sv.args.getD n 0#32).toNat
/-- RESULT of a command; BUSY of one that is not refused stands until the model lets it clear (log 34). -/
def State.svResult (s : State) (r : Nat) : State :=
  { s with sv := { s.sv with result := r, busy := r == 0 || r == 3 } }

/-- A write of SVCMD while BUSY is 1 is discarded whole. -/
def State.svCommand (s : State) (k : State → State) : Host.Outcome State Fault Refusal := .next (if s.sv.busy then s else k s)

/-- The unit that SVARG0 names for a command: fields that it does not use are MBZ. -/
def svUnit (op a : Nat) : Option MemUnit :=
  let s := bitsOf a 0 4
  let c := bitsOf a 4 5
  let b := bitsOf a 9 6
  let r := bitsOf a 15 15
  if 12 ≤ s ∨ bitsOf a 30 2 ≠ 0 then none
  else
    match op with
    | 1 => if r = 0 then some (.bank s c b) else none
    | 2 => if bitsOf a 9 21 = 0 then some (.channel s c) else none
    | 3 | 7 => if bitsOf a 4 26 = 0 then some (.stack s) else none
    | _ => some (.row s c b r)

/-- A unit holds lines of a secure region. -/
def State.unitSecure (s : State) (u : MemUnit) : Bool := s.sv.regions.any fun r => r.world && s.regionHolds r u

/-- A command on a unit. -/
def State.unitCommand (s : State) (op : Nat) (secure : Bool) (k : State → MemUnit → State × Nat) : State :=
  match svUnit op (s.svArg 0) with
  | none => s.svResult 1
  | some u =>
    if !secure && s.unitSecure u then s.svResult 2
    else if s.isRetired u then s.svResult 4
    else
      let r := k s u
      r.1.svResult r.2

/-- SVCMD 1. -/
def execRetireBank (secure : Bool) (s : State) : Host.Outcome State Fault Refusal :=
  s.svCommand fun s => s.unitCommand 1 secure State.retireUnit
/-- SVCMD 2. -/
def execRetireChannel (secure : Bool) (s : State) : Host.Outcome State Fault Refusal :=
  s.svCommand fun s => s.unitCommand 2 secure State.retireUnit
/-- SVCMD 3. -/
def execRetireStack (secure : Bool) (s : State) : Host.Outcome State Fault Refusal :=
  s.svCommand fun s => s.unitCommand 3 secure State.retireUnit
/-- SVCMD 4. -/
def execRepairRow (secure : Bool) (s : State) : Host.Outcome State Fault Refusal :=
  s.svCommand fun s => s.unitCommand 4 secure fun s u => (s.repairRowNow u, 0)

/-- SVCMD 5: clear SVARG1 units from SVARG0 on. -/
def execClear (secure : Bool) (s : State) : Host.Outcome State Fault Refusal :=
  let first := s.svArg 0
  let count := s.svArg 1
  s.svCommand fun s => (if 4096 * 128 < first + count then s.svResult 1
    else if !secure && s.sv.regions.any fun r => r.world && decide (r.num * 128 < first + count) && decide (first < (r.num + 1) * 128) then
      s.svResult 2
    else (s.clearUnits first count).svResult 0)

/-- SVCMD 6: a region leaves service, and its capacity joins the spare. -/
def execRetireRegion (secure : Bool) (s : State) : Host.Outcome State Fault Refusal :=
  let n := s.svArg 0
  let r := s.region n
  s.svCommand fun s => (if 4096 ≤ n then s.svResult 1
    else if !secure && r.world then s.svResult 2
    else if r.state = .retired then s.svResult 4
    else
      let s := (s.clearUnits (n * 128) 128).setRegion { r with state := .retired, cursor := 0, short := false, during := [] }
      let here (stripe : Nat) : Bool := stripe / 131072 == n
      let s := { s with sv := { s.sv with
        spare := min fullSpare (s.sv.spare + regionLines)
        clearing := s.sv.clearing.filter fun c => !(c.first == n * 128 && c.count == 128)
        weak := s.sv.weak.filter fun w => !here (w.1 / 18)
        rebuilt := s.sv.rebuilt.filter fun k => !here (k / 18)
        stale := s.sv.stale.filter fun st => !here st
        unreliable := s.sv.unreliable.filter fun st => !here st
        locked := s.sv.locked.filter fun st => !here st } }
      s.rebuildShort.checkAdv4.svResult 0)

/-- SVCMD 7: a stack whose base die is TRUSTED again comes back: its capacity refills the spare, and regions without spare
are rebuilt. -/
def execReturnStack (secure : Bool) (s : State) : Host.Outcome State Fault Refusal :=
  s.svCommand fun s => (match svUnit 7 (s.svArg 0) with
    | some (.stack k) =>
      if !secure && s.sv.regions.any (fun r => r.world && !((s.spread r.spread).excludes.any (unitIn (.stack k)))) then s.svResult 2
      else if !s.sv.retired.contains (.stack k) || decide ((s.die (4 + k)).state ≠ .trusted) then s.svResult 1
      else
        let s := { s with sv := { s.sv with
          retired := s.sv.retired.filter fun u => decide (u ≠ MemUnit.stack k)
          spare := min fullSpare (s.sv.spare + unitCapacity (MemUnit.stack k)) } }
        s.rebuildShort.checkAdv4.svResult 0
    | _ => s.svResult 1)

/-! ### The registers that read the table (R409, R410) -/

/-- An interleave entry's 64 bits (R400). -/
def Region.bits (r : Region) (lost : Nat) : Nat :=
  let st := match r.state with | .normal => 0 | .migrating => 1 | .degraded => 2 | .retired => 3
  let moving := decide (r.state = .migrating)
  st * 2 ^ 62 + (if r.world then 2 ^ 61 else 0) + r.spread * 2 ^ 55 + (if moving then r.nspread else r.spread) * 2 ^ 49 + r.hmap * 2 ^ 43
    + (if moving then r.nhmap else r.hmap) * 2 ^ 37 + r.cursor % 2 ^ 18 * 2 ^ 18 + lost * 2 ^ 16

/-- A read of ITENT0: it latches ITENT1 (R410). -/
def State.latchItent (s : State) : State :=
  let r := s.region (bitsOf s.sv.itsel.toNat 0 12)
  let bits := r.bits (s.lostOf r)
  { s with readData := BitVec.ofNat 32 bits, sv := { s.sv with itent1 := BitVec.ofNat 32 (bits / 2 ^ 32) } }

/-- ITENT0_READ: the read returns the entry's low word, and latches its high word for ITENT1. -/
def execItent0Read (s : State) : Host.Outcome State Fault Refusal := .next s.latchItent

/-- SVSPARE: SPNEED and SPFREE. -/
def State.svSpare (s : State) : Word :=
  BitVec.ofNat 32 ((fullSpare - s.sv.spare + regionLines - 1) / regionLines * 65536 + s.sv.spare / 2097152)

/-- SVCNT: the counter that SVCSEL selects. -/
def State.svCount (s : State) : Nat :=
  let a := s.sv.csel.toNat
  let u : MemUnit := match bitsOf a 30 2 with
    | 0 => .row (bitsOf a 0 4) (bitsOf a 4 5) (bitsOf a 9 6) (bitsOf a 15 15)
    | 1 => .bank (bitsOf a 0 4) (bitsOf a 4 5) (bitsOf a 9 6)
    | _ => .channel (bitsOf a 0 4) (bitsOf a 4 5)
  assocGet s.sv.counters u 0

end Sys2Proof.Machine
end

