-- ==== Sys2Proof/Machine/FragmentEvents.lean ====
section
/-!
DEFINITION. Events of fragments and of requests on their way: returns of long-latency operations, deliveries of traps and
advisories, ends of waits, grants of FORK and ACQUIRE, acknowledgements, the Landing (02 R47, R48, R52; 03 R83 to R87; 06
R144, R146; 11 R242, R243, R247; 19 R351, R360).
-/
namespace Sys2Proof.Machine

/-! ### LONG_LATENCY_RETURN (R83, R84, R87) -/

/-- The bits of an association of lanes to word numbers, for one word. -/
def lanesWith (l : List (Nat × Nat)) (e0 k : Nat) : Mask := Mask.ofPred e0 fun t => bitOf (assocGet l t 0) k

/-- Leave a register's words poisoned in some lanes; the number of words marked. -/
def VReg.taint (r : VReg) (e0 : Nat) (uni : Bool) (bad : Mask) : VReg × Nat :=
  if bad = 0#1024 then (r, 0)
  else if uni then
    match r.val with
    | .g _ => ({ r with poison := r.poison ||| bad }, (bad.lanes e0).length)
    | _ => ({ r with poison := r.poison ||| bad }, 1)
  else
    let g := r.write e0 0#1024 .g fun _ => 0#32
    ({ g with poison := g.poison ||| bad }, (bad.lanes e0).length)

/-- One destination word of an operation that returns. A result that is one for every lane goes into each lane of an
o register (R59, R304). -/
def Team.returnWord (t : Team) (o : Out) (r k : Nat) : Team × Nat :=
  let lanes := Mask.ofPred t.e0 fun i => (o.data.any fun p => p.1 == i) &&
    (match o.part.find? fun p => p.1 == i with | some p => bitOf p.2 k | none => true)
  let bad := lanesWith o.bad t.e0 k
  let uni := (o.uni && decide (r < 0xC0)) || t.isCore
  let every := o.uni && !uni
  let spread (m : Mask) : Mask := if every && m != 0#1024 then o.lanes else m
  let first := lanes.lowest t.e0
  let reg := if lanes = 0#1024 then t.reg r
    else (t.reg r).write t.e0 (spread lanes) (if uni then .u else .g) fun i =>
      BitVec.ofNat 32 (assocGet o.data (if every then first else i) 0 / 2 ^ (32 * k))
  let bad := spread bad
  let q := reg.taint t.e0 uni bad
  (t.setReg r q.1, q.2)

/-- The results of an operation enter the registers; the number of words left poisoned. -/
def Team.returnOut (t : Team) (o : Out) : Team × Nat :=
  let w := o.dst.zipIdx.foldl (fun (a : Team × Nat) p => let q := a.1.returnWord o p.1 p.2; (q.1, a.2 + q.2)) (t, 0)
  let t := w.1
  let t := match o.cc with
    | none => t
    | some k => t.writeCc k (Mask.ofPred t.e0 fun i => o.ccData.any fun (p : Nat × Flags) => p.1 == i)
        fun i => ((o.ccData.find? fun (p : Nat × Flags) => p.1 == i).map Prod.snd).getD Flags.zero
  let t := match o.brec, o.data.head? with
    | some b, some p => { t with b := t.b.set b (BitVec.ofNat 128 p.2) }
    | _, _ => t
  (({ t with outs := t.outs.filter (fun x => x.id != o.id), fpctl := t.fpctl ||| o.fp } : Team).countPoison w.2, w.2)

/-- A request of the operation that its return waits for. -/
def State.holdsReturn (s : State) (gid tid op : Nat) : Bool :=
  (s.reqs.any fun r => r.gid == gid && r.tid == tid && r.op == op &&
    (match r.action with
      | .write => r.check.isSome || r.waits.any s.outstanding
      | .sealRelease _ => false
      | _ => true)) ||
  s.vds.any fun v => v.pageReqs.any fun q => q.waiters.any fun w =>
    match w with | .line r _ => r.gid == gid && r.tid == tid && r.op == op | _ => false

/-- An operation may return: nothing of it is under way, and a fault of it waits until the fragment has parked (R85) or its
group's issue has stopped for a save (R375). -/
def State.mayReturn (s : State) (gid : Nat) (t : Team) (o : Out) : Bool :=
  (match o.kind with
    | .calc => true
    | .memory => !s.holdsReturn gid t.tid o.id
    | _ => false) &&
  ((t.faults.all fun p => p.op != o.order || p.lanes &&& o.lanes == 0#1024) ||
    ((s.group? gid).map fun g => decide (g.phase = .saving)).getD false ||
    t.frags.all fun f => f.mask &&& o.lanes == 0#1024 || decide (f.park ≠ .none))

/-- The fragments whose last outstanding operation has returned are ready from now on (R55). -/
def Team.renewWaits (t : Team) (clock : Nat) (o : Out) : Team :=
  { t with frags := t.frags.map fun f =>
      if o.lanes &&& f.mask ≠ 0#1024 ∧ f.park.returns ∧ (t.outsOf f).isEmpty then { f with since := clock } else f }

/-- LONG_LATENCY_RETURN. -/
def execLongLatencyReturn (a : AgentId) (op : Nat) (s : State) : Host.Outcome State Fault Refusal :=
  .next (match (s.group? a.gid).bind fun g => (g.team? a.tid).map fun t => (g, t) with
    | none => s
    | some (g, t) =>
      match t.outs.find? fun o => o.id == op with
      | none => s
      | some o =>
        if !s.mayReturn g.gid t o then s
        else
          let r := t.returnOut o
          ((s.setGroup (g.setTeam (r.1.renewWaits s.clock o))).adviseWords g.launch r.2).wakeWaits.settle g.gid)

/-! ### Deliveries (R85, R86, R351, R360) -/

/-- A park at which a trap is delivered. -/
def Park.delivers : Park → Bool
  | .marker | .trap | .drain => true
  | _ => false

/-- The trap that a fragment is due: parked, with nothing outstanding and no retry to make. -/
def Team.dueTrap (t : Team) (f : Frag) : Option PendFault :=
  if f.park.delivers && f.replay.isNone && (t.outsOf f).isEmpty then (t.faultsOf f).head? else none

/-- TRAP_DELIVERY. -/
def execTrapDelivery (a : AgentId) (s : State) : Host.Outcome State Fault Refusal :=
  .next (match s.agent? a with
    | none => s
    | some (g, t, f) =>
      match t.dueTrap f with
      | none => s
      | some p => (s.deliver g t f p).settleAll g.launch)

/-- The advisory that a fragment at U, parked at a switch marker, is due. -/
def State.dueAdvice (s : State) (g : Group) (t : Team) (f : Frag) : Option (Nat × Nat) :=
  if decide (f.park = .marker) && !f.priv && (t.outsOf f).isEmpty && (t.faultsOf f).isEmpty then
    (s.launchOf g).bind fun l => l.advisories.head?
  else none

/-- ADVISE_DELIVERY. -/
def execAdviseDelivery (a : AgentId) (s : State) : Host.Outcome State Fault Refusal :=
  .next (match s.agent? a with
    | none => s
    | some (g, t, f) =>
      match s.dueAdvice g t f, s.launchOf g with
      | some (code, va), some l =>
        let s := s.setLaunch { l with advisories := l.advisories.tail }
        let p : PendFault :=
          { op := t.nextOp, rank := 0, cause := cADVISE, lanes := f.mask, addr := va, detail := BitVec.ofNat 32 code, pte := 0,
            pc := f.pc, deferred := 0#1024, held := false, dest := [], lines := none }
        s.deliver g t f p
      | _, _ => s)

/-! ### Ends of waits (R183, R247, R144) -/

/-- Every target of a sleep has come. -/
def Frag.sleepDue (clock : Nat) (f : Frag) : Bool :=
  match f.park with
  | .sleep ts => ts.all fun w => !(BitVec.ofNat 32 clock - w).getLsbD 31
  | _ => false

/-- SLEEP_EXPIRY. -/
def execSleepExpiry (a : AgentId) (s : State) : Host.Outcome State Fault Refusal :=
  .next (match s.agent? a with
    | none => s
    | some (_, _, f) => if f.sleepDue s.clock then s.modFrag a (Frag.wake s.clock) else s)

/-- The first slot among RPTR to RPTR + n − 1 that is taken, reads PENDING and whose PROMISE has passed (R183). -/
def State.passedPromise (s : State) (r : RingSlot) (n : Nat) : Option Nat :=
  match s.ring r with
  | .error _ => none
  | .ok g => ((List.range (min n (sub32 g.wptr g.rptr))).map fun k => (g.rptr + k) % 2 ^ 32).find? fun j =>
      match s.ringRead r (g.statusAt j) 5 with
      | .ok bs =>
        let late := BitVec.ofNat 32 s.clock - BitVec.ofNat 32 (leValue (bs.take 4))
        leValue (bs.drop 4) == stPENDING && late != 0#32 && !late.getLsbD 31
      | .error _ => false

/-- The AWAITF of a fragment whose promise has passed: its operation and the slot. -/
def State.promiseDue (s : State) (t : Team) (f : Frag) : Option (Out × RingSlot × Nat) :=
  match f.park with
  | .awaitf op =>
    (t.outs.find? fun o => o.id == op).bind fun o =>
      match o.kind with
      | .awaitf n r => if (s.awaitMet t f).isSome then none else (s.passedPromise r n).map fun j => (o, r, j)
      | _ => none
  | _ => none

/-- PROMISE_PASSED: the AWAITF traps PROMISE at its park; that of a saved group waits for its return (R317). -/
def execPromisePassed (a : AgentId) (s : State) : Host.Outcome State Fault Refusal :=
  .next (match s.agent? a with
    | none => s
    | some (g, t, f) =>
      if g.phase.placed = false then s else
      match s.promiseDue t f with
      | none => s
      | some (o, r, j) =>
        let addr := match r.window with
          | none => r.addr
          | some (gid, w) => (((s.group? gid).bind fun x => x.window? w).map (·.offset)).getD 0
        let p := o.fault { cause := cPROMISE, addr := addr, detail := BitVec.ofNat 32 j, rank := rankILLOP' }
        let t := { t with outs := t.outs.filter (fun x => x.id != o.id), faults := addFault t.e0 t.faults p }
        let f := { f with park := if f.marked then .marker else .drain, marked := false }
        s.setGroup (g.setTeam (t.setFrag f)))
where
  rankILLOP' : Nat := 53

/-- The oldest write of a fragment that waits for its acknowledgement. -/
def State.dueAck (s : State) (f : Frag) : Option Nat := s.acks.find? f.hist.contains

/-- WRITE_ACKNOWLEDGEMENT: the oldest one on its way reaches its source. -/
def execWriteAcknowledgement (a : AgentId) (s : State) : Host.Outcome State Fault Refusal :=
  .next (match s.agent? a with
    | none => s
    | some (_, _, f) =>
      match s.dueAck f with
      | none => s
      | some id => ({ s with acks := s.acks.erase id } : State).wakeWaits)

/-! ### The Landing (R146, R421) -/

/-- A request may be delivered: it is not yet, it holds a permit, and its device has a token where it is rate-limited (R420,
R421). -/
def State.mayLand (s : State) (r : Req) : Bool :=
  !r.landed && !s.keptBack r && s.hasToken r.vd && s.hasPermit r

/-- LANDING_ARRIVAL: the request is delivered to its home. It takes one token. -/
def execLandingArrival (id : Nat) (s : State) : Host.Outcome State Fault Refusal :=
  .next (match s.reqs.find? fun r => r.id == id with
    | none => s
    | some r =>
      if !s.mayLand r then s
      else
        let s := s.takeTokens r.vd 1 0
        { s with reqs := s.reqs.map fun q => if q.id = id then { q with landed := true } else q })

/-! ### FORK_GRANT (R52, R243) and ACQUIRE_GRANT (R48, R242) -/

/-- The context of a quadrant is held by a group whose context has not exited. -/
def State.contextHeld (s : State) (cluster quadrant gid : Nat) : Bool :=
  s.groups.any fun g => g.gid != gid && g.cluster == cluster && g.phase.placed &&
    (match g.core with | some c => !c.exited && c.quadrant == quadrant | none => false)

/-- A free queue context of a cluster's engine. -/
def State.freeContext (s : State) (cluster : Nat) : Option Nat :=
  (List.range 4).find? fun c => !(s.queues.any fun q => decide (q.id.kind = .engine) && q.id.unit == cluster && q.id.ctx == c)

/-- The queue context that a FORK binds: a free one, or the group's own once every packet of its binding has completed. -/
def State.forkContext (s : State) (g : Group) : Option Nat :=
  match g.queue with
  | none => s.freeContext g.cluster
  | some q => if s.queueBusy g q then none else some q.ctx

/-- The next FORK of a cluster that can be granted: FORKs are granted in the order they were executed, so none passes an
earlier one that waits (R52, R56, R243). -/
def State.nextFork (s : State) (cluster : Nat) : Option AgentId :=
  match s.forks cluster with
  | [] => none
  | x :: _ =>
    match s.agent? x.1 with
    | none => none
    | some (g, _, f) =>
      let free := g.coreRuns || (!s.contextHeld cluster x.2.2.1 g.gid && (s.forkContext g).isSome)
      if free && f.hist.all (fun id => !s.outstanding id) then some x.1 else none

/-- A new fragment of all the lanes of a team (R34, R71). -/
def newFrag (entry e0 pc seq clock : Nat) : Frag :=
  { entry := entry, part := 0, holds := true, waits := false, pusher := 0, mask := Mask.first e0, pc := BitVec.ofNat 48 pc, joins := [], mode := 0#24,
    priv := false, x := [], region := none, seq := seq, frame := none, park := .none, marked := false, again := false, only := none, lines := none,
    replay := none, order := none, hist := [], release := [], since := clock, passed := 0 }

/-- A team, or a context, as it starts (R71). -/
def newTeam (tid quadrant slot f1 e0 v g o seq : Nat) : Team :=
  { tid := tid, isCore := tid == coreTid, quadrant := quadrant, slot := slot, f1 := f1, e0 := e0, live := Mask.first e0,
    v := List.replicate v VReg.zero, o := List.replicate o (if tid = coreTid then VReg.zero else { val := .g (List.replicate e0 0#32), poison := 0#1024 }),
    cc := List.replicate e0 0#16, b := List.replicate 16 0#128, fpctl := 1#32, pwcnt := 0#32, vCount := v, gMax := g, oCount := o,
    acquired := false, joinCtr := 0, seqCtr := seq, nextOp := 0, nextFrame := 0, frames := [], frags := [], outs := [], faults := [] }

/-- The sequence that a slot last had. -/
def State.seqOf (s : State) (slot : Nat) : Nat := assocGet s.seqs slot 0

/-- Bind a queue context to a descriptor, which is checked: one that fails, or that cannot be read, is halted; one that misses
the second stage is checked at the reply, before anything else (R159, R243). -/
def State.bindQueue (s : State) (g : Group) (ctx desc : Nat) : State × QueueId :=
  let q : QueueId := { kind := .engine, unit := g.cluster, ctx := ctx, vd := g.vd, desc := desc }
  let put (x : Queue) : State := { s with queues := (s.queues.filter fun x => decide (some x.id ≠ g.queue)) ++ [x] }
  let x := Queue.bound q (some g.gid)
  (match s.desc g.vd desc with
    | .ok d => if s.descOk q d then put (x true false) else (put (x true false)).haltQueue (x true false)
    | .error (.miss p t) => (put (x false false)).queueMiss q p t desc false .slot
    | .error _ => (put (x true false)).haltQueue (x true false), q)

/-- Grant a FORK: bind its queue and start the context; one that meets a running context traps ILLOP (R251). -/
def State.grantFork (s : State) (a : AgentId) : State :=
  match s.agent? a with
  | none => s
  | some (g, t, f) =>
    match f.park with
    | .fork entry desc _ word =>
      if g.coreRuns then
        let p : PendFault :=
          { op := t.nextOp, rank := 0, cause := cILLOP, lanes := f.mask, addr := 0, detail := word, pte := 0, pc := f.pc - 4#48,
            deferred := 0#1024, held := false, dest := [], lines := none }
        s.setGroup (g.setTeam (({ t with nextOp := t.nextOp + 1, faults := insertFault t.faults p } : Team).setFrag
          { f with park := .trap, marked := false }))
      else
        match s.launchOf g, s.forkContext g with
        | some l, some ctx =>
          let s := s.keepSeqs g
          let (s, q) := s.bindQueue g ctx desc
          let n := 4 * g.cluster + t.quadrant
          let seq := (s.seqOf ((864 + n / 64) * 64 + n % 64) + 1) % 2 ^ 20
          let core := newTeam coreTid t.quadrant 0 0 1 l.hdr.cv 0 l.hdr.co seq
          let core := { core with frags := [newFrag 0 1 entry seq s.clock] }
          let g := g.setTeam (t.setFrag (f.wake s.clock))
          s.setGroup { g with core := some core, munit := MUnit.empty, queue := some q }
        | _, _ => s
    | _ => s

/-- FORK_GRANT. -/
def execForkGrant (cluster : Nat) (s : State) : Host.Outcome State Fault Refusal :=
  .next (match s.nextFork cluster with
    | some a => s.grantFork a
    | none => s)

/-- ACQUIRE_GRANT: the team's rows are zero-filled and its full allotment applies; every fragment parked on the growth goes
on (R242). Lazily saved rows are evicted as it takes them (R376). -/
def execAcquireGrant (gid tid : Nat) (s : State) : Host.Outcome State Fault Refusal :=
  .next (match s.group? gid with
    | none => s
    | some g =>
      match g.team? tid, s.launchOf g with
      | some t, some l =>
        if !(t.frags.any fun f => decide (f.park = .acquire)) || g.phase != .resident then s
        else
          let t : Team := { t with
            v := t.v ++ List.replicate (l.hdr.fv - t.v.length) VReg.zero, vCount := l.hdr.fv, gMax := l.hdr.fg, acquired := true,
            frags := t.frags.map fun f => if f.park = .acquire then f.wake s.clock else f }
          (s.setGroup (g.setTeam t)).evict g.cluster
      | _, _ => s)

end Sys2Proof.Machine
end

