-- ==== Sys2Proof/Machine/Launches.lean ====
section
/-!
DEFINITION. Launches: the header and its refusals, the launch unit, waiting launches, and the places that groups take on
clusters (02 R27, R31, R32, R44, R47, R48; 07 R177; 20 R366 to R369, R373).
-/
namespace Sys2Proof.Machine

/-! ### The header (R366) -/

/-- The bits of a header that must be zero. -/
def headerMbz (v : Nat) : Bool :=
  bitsOf v 880 144 == 0 && bitsOf v 786 14 == 0 && bitsOf v 720 16 == 0 && bitsOf v 656 16 == 0 && bitsOf v 592 16 == 0 &&
  bitsOf v 469 11 == 0 && bitsOf v 370 78 == 0 && bitsOf v 106 22 == 0 && bitsOf v 61 3 == 0 && bitsOf v 53 3 == 0

/-- The header as it is read; its windows follow. -/
def parseHeader (v : Nat) (windows : List Window) : Header :=
  { entry := bitsOf v 0 48, priority := bitsOf v 48 2, persistent := bitOf v 50, cohort := bitOf v 51, spcheck := bitOf v 52,
    splitmin := bitsOf v 56 5, width := (List.range 6).map fun k => bitsOf v (64 + 7 * k) 7,
    ext := (List.range 6).map fun k => bitsOf v (128 + 32 * k) 32 + 1, fv := bitsOf v 320 8, fg := bitsOf v 328 8,
    pv := bitsOf v 336 8, pg := bitsOf v 344 8, o := bitsOf v 352 5, cv := bitsOf v 357 8, co := bitsOf v 365 5,
    spad := bitsOf v 448 21, args := bitsOf v 480 48, wmask := bitsOf v 528 16, trapvec := bitsOf v 544 48,
    endva := bitsOf v 608 48, wtab := bitsOf v 672 48, waitAddr := bitsOf v 736 48, waitKind := bitsOf v 784 2,
    waitVal := bitsOf v 800 64, expect := bitsOf v 864 16, windows := windows }

/-- An entry of the window table, and whether its MBZ bits are zero. -/
def windowOf (num v : Nat) : Window × Bool :=
  ({ num := num, offset := bitsOf v 0 21, log2sz := bitsOf v 21 3, extent := bitsOf v 32 32 }, bitsOf v 24 8 == 0)

/-- The limits of R27. -/
def Header.fieldsOk (h : Header) : Bool :=
  decide (h.width.foldl (· + ·) 0 ≤ 64) && decide (h.width.getD 0 0 ≤ 10) && decide (h.width.getD 1 0 ≤ 6) &&
  (List.range 6).all fun k => decide (h.e k ≤ 2 ^ min (h.width.getD k 0) 32)

/-- A window keeps to the allocation, and under SPCHECK to what the race metadata leaves (R127, R155); its OFFSET is a
multiple of the element size (R366's table; that R367 refuses another is DEDUCED, log 10). -/
def Header.windowOk (h : Header) (w : Window) : Bool :=
  decide (w.log2sz ≤ 4) && w.offset % 2 ^ w.log2sz == 0 && decide (w.offset + w.bytes ≤ h.spad) &&
  (!h.spcheck || decide (w.offset + w.bytes ≤ h.spad - h.spad / 16))

/-- The refusals of R367 that look at the header alone; FV is 1 to 192 by R366's table (that R367 refuses 0 is DEDUCED,
log 10). -/
def Header.formOk (h : Header) : Bool :=
  h.waitKind != 3 && h.entry % 4 == 0 && h.trapvec % 4 == 0 && h.endva % 64 == 0 && h.wtab % 8 == 0 &&
  (h.waitKind != 1 || h.waitAddr % 32 == 0) && (h.waitKind != 2 || h.waitAddr % 8 == 0) &&
  h.fieldsOk && decide (1 ≤ h.splitmin ∧ h.splitmin ≤ 16) &&
  decide (1 ≤ h.fv ∧ h.fv ≤ 192) && decide (h.fg ≤ h.fv) && decide (h.o ≤ 16) && decide (h.pv ≤ h.fv) && decide (h.pg ≤ h.pv) &&
  decide (h.pg ≤ h.fg) && decide (h.cv ≤ 192) && decide (h.co ≤ 16) && decide (h.fullRows ≤ 4096) &&
  decide (h.fullWords ≤ 2048) && h.spad % 128 == 0 && h.windows.all h.windowOk

/-! ### Quadrants and places (R44, R48, R373) -/

/-- Begin a list at its n-th member. -/
def rotate {α : Type} (n : Nat) (l : List α) : List α := l.drop (n % max l.length 1) ++ l.take (n % max l.length 1)

/-- A launch has groups that no cluster holds: to be admitted, restored or restarted. -/
def State.launchWants (s : State) (l : Launch) : Bool :=
  decide (l.phase = .ready) && (l.toAdmit != 0 || s.groups.any fun g => g.launch == l.id && !g.phase.placed && !g.refused)

/-- The highest effective priority of some launches. -/
def State.topLevel (s : State) (ls : List Launch) : Nat := (ls.map s.effPriority).foldl max 0

/-- The launches of a device that want a place. -/
def State.wanting (s : State) (vd : Nat) : List Launch := if s.deviceReady vd then (s.readyLaunches vd).filter s.launchWants else []

/-- The devices that the pool serves next, in order, with their level (R370): weighted devices by pass; without any that is
ready, the weight-0 devices by number after the last served. The ready launches that count for the level are those that want a
place (log 57). -/
def State.poolOrder (s : State) : Nat × List Nat :=
  let inPool := (List.range 64).filter fun d => (s.vd d).pool && !(s.wanting d).isEmpty
  if s.weightedReady.isEmpty then (0, rotate (s.lastServed + 1) (List.range 64) |>.filter inPool.contains)
  else
    let ds := inPool.filter fun d => weightOf (s.vd d) != 0
    let level := (ds.map fun d => s.topLevel (s.wanting d)).foldl max 0
    (level, sortBy (fun a b => decide ((s.vd a).pass < (s.vd b).pass) || ((s.vd a).pass == (s.vd b).pass && decide (a ≤ b)))
      (ds.filter fun d => s.topLevel (s.wanting d) == level))

/-- A device is to leave the pool at once: a device is ready at a higher level, or its weight is 0 and a weighted device of the
pool is ready (R370). -/
def State.outranked (s : State) (vd : Nat) : Bool :=
  if weightOf (s.vd vd) = 0 then !s.weightedReady.isEmpty
  else decide (s.topLevel (s.readyLaunches vd) < s.poolOrder.1)

/-- A device takes groups on a cluster's quadrant: its own, or a pool quadrant whose grant it holds and keeps; `pooled` lets the
pool's quadrants count as the device's own where it is in the pool. -/
def State.quadrantIsOf (s : State) (vd cluster k : Nat) (pooled : Bool) : Bool :=
  let c := s.cluster cluster
  match ownerIn c.own k with
  | some d => d == vd
  | none =>
    if pooled then (s.vd vd).pool
    else ((c.grantOf k).map fun g => g.vd == vd && !g.spent && !s.outranked vd).getD false

/-- The quadrants of a cluster on which a device's groups may be placed. -/
def State.openQuads (s : State) (vd cluster : Nat) : List Nat := (List.range 4).filter fun k => s.quadrantIsOf vd cluster k false

/-- What is left of a quadrant: free rows; rows and words beyond what the teams in their prologue may still grow by;
entries beyond the reservations; free entries and team indices. -/
structure Room where
  quadrant : Nat
  free : Nat
  rows : Nat
  words : Nat
  reserve : Nat
  entries : List Nat
  slots : List Nat
  deriving DecidableEq, Repr

/-- An empty quadrant. -/
def Room.empty (k : Nat) : Room :=
  { quadrant := k, free := 4096, rows := 4096, words := 2048, reserve := 64, entries := List.range 64, slots := List.range 64 }

/-- Take room for a team. -/
def Room.take (r : Room) (n : Need) (reserve : Nat) (entries : List Nat) (slot : Nat) : Room :=
  { r with free := r.free - n.hold, rows := r.rows - n.rows, words := r.words - n.words, reserve := r.reserve - reserve,
           entries := r.entries.filter fun e => !entries.contains e, slots := r.slots.filter (· != slot) }

/-- What is left of a cluster's quadrant. -/
def State.room (s : State) (cluster k : Nat) : Room :=
  (s.onQuadrant cluster k).foldl (fun r p =>
    match s.headerOf p.1 with
    | none => r
    | some h => r.take (p.2.need h) (max p.1.splitmin p.2.entries.length) p.2.entries p.2.slot) (Room.empty k)

/-- A team's place: quadrant, index on it, and its split-table entries. -/
structure Spot where
  tid : Nat
  quadrant : Nat
  slot : Nat
  entries : List Nat
  deriving DecidableEq, Repr

/-- The room can take the team (R44, R48). -/
def Room.fits (r : Room) (n : Need) (splitmin : Nat) : Bool :=
  decide (n.rows ≤ r.rows) && decide (n.words ≤ r.words) && decide (max splitmin n.entries ≤ r.reserve) &&
  decide (n.entries ≤ r.entries.length) && !r.slots.isEmpty

/-- The room with the most free rows that can take a team; ties go to the lower number (R373). -/
def bestRoom (rs : List Room) (n : Need) (splitmin : Nat) : Option Room :=
  rs.foldl (fun b r => if r.fits n splitmin then
      match b with
      | some x => if x.free < r.free then some r else b
      | none => some r
    else b) none

/-- Place teams one by one. -/
def placeTeams (splitmin : Nat) : List Room → List Need → Option (List Room × List Spot)
  | rs, [] => some (rs, [])
  | rs, n :: ns =>
    match bestRoom rs n splitmin with
    | none => none
    | some r =>
      let slot := r.slots.headD 0
      let es := r.entries.take n.entries
      let rs := rs.map fun x => if x.quadrant = r.quadrant then x.take n (max splitmin n.entries) es slot else x
      (placeTeams splitmin rs ns).map fun p => (p.1, { tid := n.tid, quadrant := r.quadrant, slot := slot, entries := es } :: p.2)

/-- The first place of n bytes in a share where some ranges are taken. -/
def firstFit (share n : Nat) (used : List (Nat × Nat)) : Option Nat :=
  (sortBy (fun a b => decide (a ≤ b)) (0 :: used.map fun u => u.1 + u.2)).find? fun a =>
    decide (a + n ≤ share) && used.all fun u => decide (a + n ≤ u.1) || decide (u.1 + u.2 ≤ a) || n == 0 || u.2 == 0

/-- The scratchpad ranges that groups of a device hold on a cluster. -/
def State.spadUsed (s : State) (vd cluster : Nat) : List (Nat × Nat) :=
  (s.groups.filter fun g => g.vd == vd && g.cluster == cluster && g.phase.placed).map fun g => (g.base, g.spad)

/-- The place a group's teams and allocation take on a cluster, if there is room. -/
def State.placeOn (s : State) (vd cluster splitmin spad : Nat) (needs : List Need) : Option (List Spot × Nat) :=
  let ks := s.openQuads vd cluster
  match placeTeams splitmin (ks.map (s.room cluster)) needs with
  | none => none
  | some p => (firstFit (32768 * s.banksOf cluster ks) spad (s.spadUsed vd cluster)).map fun b => (p.2, b)

/-- The needs of a new group's teams. -/
def Header.needs (h : Header) : List Need :=
  (List.range (h.e 1)).map fun tid => { tid := tid, hold := h.prologueRows, rows := h.fullRows, words := h.fullWords, entries := 1 }

/-! ### Whether a cohort, or a grid, could be placed on empty dies (R31, R32, R367) -/

/-- Groups that some rooms take, up to a number. -/
def roomCap (h : Header) : Nat → List Room → Nat
  | 0, _ => 0
  | n + 1, rs =>
    match placeTeams h.splitmin rs h.needs with
    | none => 0
    | some p => 1 + roomCap h n p.1

/-- Groups that an empty cluster takes, up to a number. -/
def State.clusterCap (s : State) (vd : Nat) (h : Header) (cluster n : Nat) : Nat :=
  let ks := (List.range 4).filter fun k => s.quadrantIsOf vd cluster k true
  let share := 32768 * s.banksOf cluster ks
  let n := if h.spad = 0 then n else min n (share / h.spad)
  if ks.isEmpty then 0 else roomCap h (min n 256) (ks.map Room.empty)

/-- Groups that clusters take, counting at most `each` of one cluster, until there are `want`. -/
def State.capUpTo (s : State) (vd : Nat) (h : Header) (each want : Nat) : List Nat → Nat → Nat
  | [], got => got
  | c :: cs, got => if want ≤ got then got else s.capUpTo vd h each want cs (got + s.clusterCap vd h c (min each (want - got)))

def dieClusters (d : Nat) : List Nat := (List.range 72).map (72 * d + ·)

/-- k cohorts fit one empty die, which is TRUSTED: partners on distinct clusters, and a group for every index. -/
def State.dieTakes (s : State) (vd : Nat) (h : Header) (d k : Nat) : Bool :=
  let pairs := k * (h.cohortSize / 2)
  decide ((s.die d).state = .trusted) && decide (2 * pairs ≤ s.capUpTo vd h pairs (2 * pairs) (dieClusters d) 0) &&
  decide (k * h.cohortSize ≤ s.capUpTo vd h (k * h.cohortSize) (k * h.cohortSize) (dieClusters d) 0)

/-- How many cohorts an empty die takes, up to a number. -/
def State.dieCohorts (s : State) (vd : Nat) (h : Header) (d : Nat) : Nat → Nat
  | 0 => 0
  | n + 1 => if s.dieTakes vd h d (n + 1) then n + 1 else s.dieCohorts vd h d n

/-- A cohort can be placed, and under PERSISTENT the grid. -/
def State.placeable (s : State) (vd : Nat) (h : Header) : Bool :=
  ((List.range 3).any fun d => s.dieTakes vd h d 1) &&
  (!h.persistent ||
    let n := h.groupsOf / h.cohortSize
    decide (n ≤ ((List.range 3).map fun d => s.dieCohorts vd h d (min n 18432)).foldl (· + ·) 0))

/-- The largest scratchpad share that a device can hold on one cluster covers n bytes (R367). -/
def State.shareCovers (s : State) (vd n : Nat) : Bool :=
  n == 0 || (List.range 216).any fun c => decide (n ≤ 32768 * s.banksOf c ((List.range 4).filter fun k => s.quadrantIsOf vd c k true))

/-- Admission accepts a header (R367). -/
def State.accepts (s : State) (vd : Nat) (mbz : Bool) (h : Header) : Bool :=
  mbz && h.formOk && s.shareCovers vd h.spad && s.placeable vd h

/-! ### Ready launches and waiting launches (R368, R370) -/

/-- No other launch of the device that wants a place comes before this one: by effective priority, and then in the order they
left their queues (R369). -/
def State.firstInLine (s : State) (l : Launch) : Bool :=
  (s.readyLaunches l.vd).all fun k => k.id == l.id || !s.launchWants k || decide (s.effPriority k < s.effPriority l)
    || (s.effPriority k == s.effPriority l && decide (l.order < k.order))

/-- WAIT_CONDITION_CHECK: the launch unit of a die evaluates the condition of the n-th launch of its wait list. -/
def execWaitConditionCheck (die n : Nat) (s : State) : Host.Outcome State Fault Refusal :=
  .next (match (s.waitList die)[n]? with
    | some l => s.checkWait l
    | none => s)

/-! ### LAUNCH_PACKET (R177, R366 to R368) -/

/-- The window numbers that a header's WMASK declares. -/
def declared (v : Nat) : List Nat := (List.range 16).filter fun k => bitOf v (528 + k)

/-- Read the entries of the window table from the n-th declared on, up to the first that cannot be read. -/
def State.readWindows (s : State) (vd wtab : Nat) : List Nat → List Nat × Option (Bad × Nat)
  | [] => ([], none)
  | k :: ks =>
    match s.valueVa vd (wtab + 8 * k) 8 with
    | .error e => ([], some (e, wtab + 8 * k))
    | .ok x => let r := s.readWindows vd wtab ks; (x :: r.1, r.2)

/-- Read what a LAUNCH's packet still lacks of its header and its window table: each is read once (R366). -/
def State.readHeader (s : State) (vd : Nat) (p : Packet) : Packet × Option (Bad × Nat) :=
  let at_ := bitsOf p.bits 128 48
  match (match p.hdr with | some v => .ok v | none => (s.valueVa vd at_ 128) : Except Bad Nat) with
  | .error e => (p, some (e, at_))
  | .ok v =>
    let r := s.readWindows vd (parseHeader v []).wtab ((declared v).drop p.wins.length)
    ({ p with hdr := some v, wins := p.wins ++ r.1 }, r.2)

/-- The header that a packet has read, and whether its MBZ bits, and those of its windows, are zero. -/
def Packet.header (p : Packet) : Header × Bool :=
  let v := p.hdr.getD 0
  let ws := ((declared v).zip p.wins).map fun x => windowOf x.1 x.2
  (parseHeader v (ws.map (·.1)), headerMbz v && ws.all (·.2))

/-- A new launch, from its packet. -/
def State.newLaunch (s : State) (q : QueueId) (p : Packet) (h : Header) : Launch :=
  { id := s.nextLaunch, vd := q.vd, die := q.unit, hdr := h, phase := .waiting, toAdmit := h.groupsOf, trapvec := h.trapvec,
    endva := h.endva, trapvecLo := none, endvaLo := none, advmask := 0#32, advisories := [], traps := 0, status := 0,
    deciding := none, stage := .record, endMiss := none, ring := p.ring, tag := p.tag, queue := q, order := s.nextLaunch, begunOn := [] }

/-- Hand a launch to admission, or to the wait list; where that is full, the queue waits at its head with the header it has
read (R368). -/
def State.handOver (s : State) (x : Queue) (p : Packet) (h : Header) : State :=
  let l := s.newLaunch x.id p h
  let met := (s.conditionMet l).toOption.getD false
  if !met && decide (64 ≤ (s.waitList x.id.unit).length) then (s.setQueue { x with head := some p }).setQstate x.id 2
  else
    let s := { (s.setQueue { x with head := none, pending := x.pending ++ [l.id] }).packetGone x.id p with
               launches := s.launches ++ [l], nextLaunch := s.nextLaunch + 1 }
    (if met then s.makeReady l else s.checkWait l).setQstate x.id 0

/-- The lines of its header and window table that a LAUNCH's packet still lacks. -/
def State.headerLines (s : State) (vd : Nat) (p : Packet) : List Nat :=
  let at_ := bitsOf p.bits 128 48
  let table (v : Nat) : List Nat := ((declared v).drop p.wins.length).map fun k => (parseHeader v []).wtab + 8 * k
  match p.hdr with
  | some v => table v
  | none => (linePieces at_ 128).map (·.1) ++ (match s.valueVa vd at_ 128 with | .ok v => table v | .error _ => [])

/-- LAUNCH_PACKET: the launch unit reads the header of the LAUNCH at its queue's head, once, with a token (R366, R421). -/
def execLaunchPacket (q : QueueId) (s : State) : Host.Outcome State Fault Refusal :=
  let s := if s.serverStopped q then s else s.startHead q
  .next (match s.queue? q with
    | none => s
    | some x =>
      match x.head with
      | none => s
      | some p =>
        if !p.started || p.code.isSome || p.type != 5 || x.miss.isSome || s.serverStopped q then s
        else s.whenFree q (s.headerLines q.vd p ++ [q.desc]) (lineCount (s.headerLines q.vd p)) fun s =>
          let x := { x with paid := 0 }
          let refuse (s : State) (code fva : Nat) : State := s.setQueue { x with head := some { p with code := some code, fva := fva } }
          match s.readHeader q.vd p with
          | (p, some (.miss g t, va)) => (s.setQueue { x with head := some p }).queueMiss q g t va false (.run p.slot va)
          | (_, some (b, va)) => refuse (s.logBad q false b) stFAULT va
          | (p, none) => if s.accepts q.vd p.header.2 p.header.1 then s.handOver x p p.header.1 else refuse s stBADPKT 0)

end Sys2Proof.Machine
end

