-- ==== Sys2Proof/Machine/MatrixUnit.lean ====
section
/-!
DEFINITION. The matrix unit's work: performing the command at the head of its queue, holding commands after a trap, and
peer arrivals (08 R187 to R201; 16 R327 to R334).
-/
namespace Sys2Proof.Machine

/-- What performing the command at the head comes to. -/
inductive Performed where
  /-- it goes on waiting; the state may have changed -/
  | waits (s : State)
  /-- traps, one for each cause, with the lines that a retry sends again -/
  | trap (s : State) (ts : List Trap)
  /-- it is finished, with a result, flags of a condition code and flags of FPCTL -/
  | done (s : State) (v : Option Nat) (cc : Option Flags) (fp : FFlags)

/-- WINDOW, with its tile and reason (R354). -/
def windowTrap (tile why : Nat) : Trap := { cause := cWINDOW, detail := BitVec.ofNat 32 (tile + 16 * why) }

/-- Replace the unit of a group. -/
def State.setUnit (s : State) (gid : Nat) (u : MUnit) : State := s.modGroup gid fun g => { g with munit := u }
/-- Replace the command at the head. -/
def State.setHead (s : State) (gid : Nat) (c : Cmd) : State :=
  s.modGroup gid fun g => { g with munit := { g.munit with queue := c :: g.munit.queue.tail } }

/-- The tiles that a MAINIT or MDROP empties or initialises. -/
def MUnit.touched (u : MUnit) (m cls : Nat) : List Nat :=
  let l := m :: (if cls = 2 then [m + 1] else [])
  l ++ (l.filter fun t => (u.tile t).role != 0).map mate

/-- A held MWAIT whose tile is emptied or initialised again no longer counts (R332): its count becomes 0. -/
def MUnit.breakWaits (u : MUnit) (tiles : List Nat) : MUnit :=
  { u with held := u.held.map fun c => match c.what with
      | .wait t _ => if tiles.contains t then { c with what := .wait t 0 } else c
      | _ => c }

/-! ### Lines of MSAVE and MLOAD (R125, R330, R334) -/

def Target.buf (t : Target) (bw : Nat) : Buf :=
  match t with
  | .record r => recordBuf bw r
  | .window w => w.buf

/-- The pieces of the 1,024 elements from e on; `data` of a store. -/
def cmdPieces (b : Buf) (e size : Nat) (data : List (List Byte)) : List Piece :=
  data.zipIdx.filterMap fun d =>
    match b.addr (e + d.2) with
    | .ok a => some { lane := d.2, addr := a, len := size, data := d.1, at_ := 0 }
    | .error _ => none

/-- A request as one line, or the scratchpad, sees it; its lanes are element numbers. -/
def Cmd.req (c : Cmd) (g : Group) (place : Place) (va : Nat) (ps : List Piece) : Req :=
  { id := c.acc, root := c.acc, later := [], gid := g.gid, tid := coreTid, op := c.op, vd := g.vd, cluster := g.cluster, action := .write, place := place,
    va := va, lanes := ps.map fun p => { lane := p.lane, off := p.addr - va, len := p.len, data := p.data, at_ := 0 },
    src := 864 + g.coreSource, flow := c.flow, scope := 0, hint := c.hint, waits := [], once := true, pub := false, check := c.check, landed := true, via := [] }

/-- The answers of the lines of a command in memory; a line that was denied answers S2DENY (R394). -/
def State.cmdAnswers (s : State) (g : Group) (c : Cmd) (kind : Access) (ps : List Piece) : List (Nat × LineAnswer) :=
  let m : MemOp := { access := kind, action := .write, check := c.check }
  ((ps.map fun p => p.addr / 128).eraseDups).zipIdx.map fun n =>
    let l := n.1
    let mine := ps.filter fun p => p.addr / 128 == l
    (l, match c.deny.find? (·.1 == l) with
      | some (_, gpa) =>
        .bad { cause := cS2DENY, addr := (mine.head?.map (·.addr)).getD 0, detail := BitVec.ofNat 32 (gpa / 65536), rank := rankS2DENY } none
      | none => (s.choicesOn (m.choices * n.2)).pieceAnswer g.cluster g.vd m mine)

/-- A reply ends the command's wait for a unit: its lines there are translated again, or answer S2DENY (R394). -/
def Cmd.answered (c : Cmd) (p : PageReq) (deny : Bool) : Cmd :=
  let mine (m : Nat × Nat) : Bool := m.2 / unit2M == p.unit
  { c with miss := c.miss.filter (· ≠ (p.die, p.unit)), missing := c.missing.filter fun m => !mine m,
           deny := if deny then c.missing.filter mine ++ c.deny else c.deny }

/-- The choices of the tape that a line of a command takes. -/
def Cmd.choices (c : Cmd) : Nat := if c.check.isSome then 3 else 1

/-- The trap of the cause that stands first (R124). -/
def firstTrap (ts : List Trap) : Option Trap :=
  ts.foldl (fun b t => match b with | none => some t | some b => if t.rank < b.rank then some t else some b) none

/-- One trap for each cause that lines of a store meet, the first line's, with the lines that meet it (R124, R330). -/
def causesOf (ts : List (Trap × Nat)) : List Trap :=
  ((ts.map fun t => t.1.rank).eraseDups).filterMap fun k =>
    (ts.find? fun t => t.1.rank == k).map fun t => { t.1 with lines := some ((ts.filter fun u => u.1.rank == k).map (·.2)) }

/-- The unit waits for the page requests of the lines that miss, one for each 2 MiB unit (R392). -/
def State.cmdMiss (s : State) (g : Group) (c : Cmd) (as : List (Nat × LineAnswer)) (wr : Bool) : State :=
  let die := dieOf g.cluster
  let src := (g.core.map g.slotOf).getD 0xFFFF
  let missing := as.filterMap fun a => match a.2 with | .miss x t => some (a.1, x, t) | _ => none
  let units := (missing.map fun m => m.2.1 / unit2M).eraseDups
  (units.foldl (fun s n => match missing.find? fun m => m.2.1 / unit2M == n with
    | some (l, gpa, t) => s.pageMiss g.vd die src (l * 128) gpa (if t then 1 else 0) wr [.matrix g.gid]
    | none => s) s).setHead g.gid { c with miss := units.map fun n => (die, n), missing := missing.map fun m => (m.1, m.2.1) }

/-- A line of the command misses the second stage. -/
def misses (as : List (Nat × LineAnswer)) : Bool := as.any fun a => match a.2 with | .miss _ _ => true | _ => false

/-- Log the dropped requests of lines. -/
def State.logLines (s : State) (g : Group) (as : List (Nat × LineAnswer)) : State :=
  as.foldl (fun s a => match a.2 with
    | .bad _ log => s.logDrop ((g.core.map g.slotOf).getD 0) g.vd log
    | _ => s) s

/-- The race of a request that lists elements: the state and the trap; the elements that race are returned. -/
def State.cmdRace (s : State) (r : Req) (write : Bool) : State × List Nat × Option Trap :=
  let (s, bad, stamp) := s.raceCheck r write false
  (s, bad, (r.lanes.find? fun la => bad.contains la.lane).map fun la =>
    { cause := cRACE, addr := r.laneAddr la, detail := stamp, rank := rankRACE })

/-- Store elements in the scratchpad, each with its words' tags (R138). -/
def State.storePieces (s : State) (gid : Nat) (ps : List Piece) : State := s.scratchStores gid (ps.map fun p => (p.addr, p.data))

/-- The lines of a command that are sent. -/
def sentLines (as : List (Nat × LineAnswer)) : List Place := as.filterMap fun a => match a.2 with | .ok p => some p | _ => none

/-- No home keeps a line of the command waiting, the context finds a permit for each, and its device tokens (R402, R420, R421). -/
def State.cmdMaySend (s : State) (g : Group) (c : Cmd) (as : List (Nat × LineAnswer)) : Bool :=
  (sentLines as).all (fun p => s.permitFree (g.coreSource) p && !s.lineBlocked (s.served g.vd p false)) && s.enough g.vd (sentLines as).length c.paid

/-- The command waits: it calls channels in self-refresh out, and is given what tokens there are. -/
def State.cmdWait (s : State) (g : Group) (c : Cmd) (as : List (Nat × LineAnswer)) : State :=
  let s := (sentLines as).foldl (fun s p => s.callChannel (s.served g.vd p false)) s
  if s.enough g.vd (sentLines as).length c.paid then s
  else (s.setVd g.vd { s.vd g.vd with tokens := 0 }).setHead g.gid { c with paid := c.paid + (s.vd g.vd).tokens }

/-- MSAVE's stores: a line, or a 128-byte block of a window, that faults is not written, and the others are; so are the others of a line
that misses, before the unit waits (R392). A store into a slot of a moored device's queue wakes the device (R435). -/
def State.performSave (s : State) (g : Group) (c : Cmd) (t : Target) (bw e : Nat) (images : List (List Byte)) : Performed :=
  let all := cmdPieces (t.buf bw) e 16 images
  let ps := match c.lines with | none => all | some ls => all.filter fun p => ls.contains (p.addr / 128)
  let finish (x : State × List (Trap × Nat)) : Performed :=
    if x.2.isEmpty then .done x.1 none none 0#5 else .trap x.1 (causesOf x.2)
  match t with
  | .window _ =>
    let place : Place := { space := .scratch g.gid, addr := 0, keyid := 0, dual := none }
    finish (((ps.map fun p => p.addr / 128).eraseDups).foldl (fun (acc : State × List (Trap × Nat)) l =>
      let mine := ps.filter fun q => q.addr / 128 == l
      match acc.1.cmdRace (c.req g place 0 mine) true with
      | (s, _, some t) => (s, acc.2 ++ [(t, l)])
      | (s, _, none) => (s.storePieces g.gid mine, acc.2)) (s, []))
  | .record _ =>
    let as := s.cmdAnswers g c .write ps
    if !s.cmdMaySend g c as then .waits (s.cmdWait g c as)
    else
      let x := as.foldl (fun (acc : State × List (Trap × Nat)) a =>
        match a.2 with
        | .ok p =>
          let mine := ps.filter fun q => q.addr / 128 == a.1
          let r := c.req g p (a.1 * 128) mine
          match acc.1.cmdRace r true with
          | (s, _, some t) => (s, acc.2 ++ [(t, a.1)])
          | (s, _, none) =>
            let p := s.served g.vd p false
            let s := (s.wakeBySlot p).heal p
            ((s.storeAt g.vd p (mine.map fun q => (q.addr % 128, q.data))).1.storeHint r p (s.isCached p), acc.2)
        | .bad t _ => (acc.1, acc.2 ++ [(t, a.1)])
        | .miss _ _ => acc)
        (((if misses as then s else s.logLines g as).takeTokens g.vd (sentLines as).length c.paid).choicesOn (c.choices * as.length), [])
      if misses as then
        let left := as.filterMap fun a => match a.2 with
          | .ok _ => if x.2.any (·.2 == a.1) then some a.1 else none
          | _ => some a.1
        .waits (x.1.cmdMiss g { c with lines := some left, paid := 0 } as true)
      else finish x

/-- MLOAD's reads, with its hint (R130, R131): the images of its elements, unless some line faults or is poisoned. -/
def State.performLoad (s : State) (g : Group) (c : Cmd) (t : Target) (bw e : Nat) (k : State → List (List Byte) → Performed) : Performed :=
  let ps := cmdPieces (t.buf bw) e 16 (List.replicate 1024 [])
  match t with
  | .window w =>
    let r := c.req g { space := .scratch g.gid, addr := 0, keyid := 0, dual := none } 0 ps
    let (s, _, race) := s.cmdRace r false
    let ue := (ps.findSome? fun p => (g.poisonIn p.addr 16).map fun syn => (p, syn)).map fun q =>
      ({ cause := cUE, addr := w.num + 2 ^ 32 * (e + q.1.lane), detail := q.2, rank := rankUE } : Trap)
    match firstTrap (ue.toList ++ race.toList) with
    | some t => .trap s [t]
    | none => k s (ps.map fun p => Memory.read g.mem p.addr 16)
  | .record _ =>
    let as := s.cmdAnswers g c .read ps
    if !s.cmdMaySend g c as then .waits (s.cmdWait g c as) else
    if misses as then .waits (s.cmdMiss g c as false)
    else
      let s := ((s.logLines g as).takeTokens g.vd (sentLines as).length c.paid).choicesOn (c.choices * as.length)
      let x := as.foldl (fun (acc : State × List Trap × List (Nat × List Byte)) a =>
        let (s, ts, ds) := acc
        match a.2 with
        | .ok p =>
          let mine := ps.filter fun q => q.addr / 128 == a.1
          let p := s.served g.vd p false
          let r := c.req g p (a.1 * 128) mine
          let hit := s.roHit r p
          let s := if hit.isSome then s else s.heal p
          let (s, _, race) := s.cmdRace r false
          match hit, s.readSyndrome p with
          | some bs, _ => (s, ts ++ race.toList, ds ++ mine.map fun q => (q.lane, (bs.drop (q.addr % 128)).take 16))
          | none, some syn =>
            let first := (mine.head?.map (·.addr)).getD 0
            (s, ts ++ [{ cause := cUE, addr := first, detail := syn, rank := rankUE }] ++ race.toList, ds)
          | none, none =>
            let free := s.wrongKey p
            let s' := (s.roFill r p).allocate r p
            (if free then { s' with fresh := s.fresh + 128 } else s', ts ++ race.toList,
             ds ++ mine.map fun q => (q.lane, s.lineBytes p (q.addr % 128) 16))
        | .bad t _ => (s, ts ++ [t], ds)
        | .miss _ _ => acc) (s, [], [])
      let s := if c.hint = 1 then x.1.popChoice else x.1
      match firstTrap x.2.1 with
      | some t => .trap s [t]
      | none => k s ((List.range 1024).map fun i => ((x.2.2.find? fun d => d.1 == i).map (·.2)).getD [])

/-- MDRAIN's writes into a window; under SPCHECK they take part in race detection, and a race leaves the window unwritten (R152, R329;
log 53). -/
def State.performDrain (s : State) (g : Group) (c : Cmd) (w : Window) (e size : Nat) (data : List (List Byte)) (fp : FFlags) : Performed :=
  let b := w.buf
  match (List.range (data.length - 1024)).findSome? fun k => match b.addr (e + 1024 + k) with | .error x => some x | .ok _ => none with
  | some x => .trap s [{ cause := cBOUNDS, addr := x.1, detail := b.detail x.2, rank := 1 }]
  | none =>
    let ps := cmdPieces b e size data
    let r := c.req g { space := .scratch g.gid, addr := 0, keyid := 0, dual := none } 0 ps
    match s.cmdRace r true with
    | (_, _, some t) => .trap s [t]
    | (s, _, none) => .done (s.storePieces g.gid ps) none none fp

/-! ### The commands -/

/-- Perform a command of a group (R327). A MDRAINP that finds its tile as it should goes on waiting for its arrival. -/
def State.performCmd (s : State) (g : Group) (c : Cmd) : Performed :=
  let u := g.munit
  let onTile (m : Nat) (k : Unit → Performed) : Performed :=
    match u.tileBad m with
    | some why => .trap s [windowTrap m why]
    | none => k ()
  let put (u : MUnit) : State := s.setUnit g.gid u
  match c.what with
  | .init cls m w => .done (put ((u.init m cls w).breakWaits (u.touched m cls))) none none 0#5
  | .initAuto cls m h =>
    match u.fa, u.fb with
    | a :: _, b :: _ =>
      if a.cls ≠ cls ∨ b.cls ≠ cls then .trap s [windowTrap m 3]
      else .done (put ((u.init m cls (autoWindow a.eb b.eb h (if cls = 2 then 96 else 48))).breakWaits (u.touched m cls))) none none 0#5
    | _, _ => .waits s
  | .mma m => onTile m fun _ =>
    match u.fa, u.fb with
    | a :: fa, b :: fb =>
      if a.cls ≠ (u.tile m).cls ∨ b.cls ≠ (u.tile m).cls then .trap s [windowTrap m 3]
      else .done (put { u.mma m a b with fa := fa, fb := fb }) none none 0#5
    | _, _ => .waits s
  | .resolve m => onTile m fun _ => .done (put (u.putAccs m ((u.accs m).map Acc.resolve))) none none 0#5
  | .drain m raw w e type rnd sb ftz => onTile m fun _ =>
    if raw then
      let images (m : Nat) : List (List Byte) := (u.tile m).els.map fun x => x.image (u.tile m).role
      s.performDrain g c w e 16 (images m ++ (if (u.tile m).role = 1 then images (m + 1) else [])) 0#5
    else if (u.accs m).any fun a => !a.resolved then .trap s [{ cause := cUNRESOLVED, detail := BitVec.ofNat 32 m }]
    else
      let r := (u.accs m).map fun a => a.drain (u.tile m).w type rnd sb ftz
      let size := (typeFormat type).bytes
      s.performDrain g c w e size (r.map fun p => leBytes size p.1) (r.foldl (fun f p => f ||| p.2) 0#5)
  | .drainp m _ => onTile m fun _ => .waits s
  | .save m t bw e =>
    if (u.tile m).cls = 3 then .trap s [windowTrap m 0]
    else s.performSave g c t bw e ((u.tile m).els.map fun x => x.image (u.tile m).role)
  | .load m t bw e hdr => s.performLoad g c t bw e fun s images =>
    match u.load m hdr.toNat images with
    | none => .trap s [{ cause := cILLOP, detail := c.word, rank := 53 }]
    | some u => .done (s.setUnit g.gid u) none none 0#5
  | .cmp m thr => onTile m fun _ =>
    let t := decodeNum fp32 thr.toNat
    if t.isNan then .done s (some 0) none fIV else .done s (some (u.count m t)) none 0#5
  | .drop m => .done (put ((u.drop m).breakWaits (u.touched m 0))) none none 0#5
  | .dropFifo b n =>
    let l := if b then u.fb else u.fa
    let u' := if b then { u with fb := l.drop n } else { u with fa := l.drop n }
    if n ≤ l.length then .done (put u') none none 0#5
    else .waits ((put u').setHead g.gid { c with what := .dropFifo b (n - l.length) })
  | .stat m => .done s (some (u.tile m).header) none 0#5
  | .wait m n =>
    if n = 0 then .trap s [windowTrap m 4]
    else onTile m fun _ => if n ≤ (u.tile m).arrivals then .done (s.acquireAt g.cluster 3) none none 0#5 else .waits s

/-- A fragment that is parked at an MWAIT goes on to its next park. -/
def Team.endMwait (t : Team) (clock : Nat) (finished : Bool) : Team :=
  { t with frags := t.frags.map fun f => match f.park with
      | .mwait _ => if finished then f.wake clock else { f with park := if f.marked then .marker else .drain, marked := false }
      | _ => f }

/-- Finish the command at the head: it leaves the queue, and its operation returns. -/
def State.endCmd (s : State) (gid : Nat) (c : Cmd) (v : Option Nat) (cc : Option Flags) (fp : FFlags) : State :=
  let s := s.modGroup gid fun g =>
    { g with munit := { g.munit with queue := g.munit.queue.tail },
             core := g.core.map fun t =>
               match t.outs.find? fun o => o.id == c.op with
               | none => t
               | some o =>
                 let o : Out := { o with data := (v.map fun x => (0, x)).toList, ccData := (cc.map fun x => (0, x)).toList,
                                         fp := BitVec.ofNat 32 (fp.toNat * 16) }
                 let t := (t.returnOut o).1
                 match c.what with
                 | .wait _ _ => t.endMwait s.clock true
                 | _ => t }
  s.wakeWaits.settle gid

/-- A context that held commands leave no room in the queue of 16 goes no further: it is parked there, and the trap is delivered
(R187, R328; log 93). -/
def Team.parkFull (t : Team) (held : Nat) : Team :=
  if held < 16 then t
  else { t with frags := t.frags.map fun f => if f.park = .none ∧ f.replay.isNone ∧ !f.priv then { f with park := .drain } else f }

/-- Hold the command at the head, with the traps it found, and every later one (R328). One that only sent lines again is held
already, and its operation ends. -/
def State.holdCmd (s : State) (gid : Nat) (c : Cmd) (ts : List Trap) : State :=
  s.modGroup gid fun g =>
    let later := g.munit.queue.tail
    let ops := c.op :: later.map (·.op)
    let mine := if c.part then [] else [{ c with lines := none, deny := [] }]
    let held := mine ++ later ++ g.munit.held
    { g with munit := { g.munit with queue := [], held := held },
             core := g.core.map fun tm =>
               let faults := match tm.outs.find? fun o => o.id == c.op with
                 | some o => ts.foldl (fun l t => insertFault l { o.fault { t with lanes := some o.lanes, dest := o.dst } with held := true }) tm.faults
                 | none => tm.faults
               let outs := (tm.outs.filter fun (o : Out) => !(c.part && o.id == c.op)).map fun (o : Out) =>
                 if ops.contains o.id then { o with kind := .held } else o
               (({ tm with faults := faults, outs := outs } : Team).endMwait s.clock false).parkFull held.length }

/-- Perform the command at the head of a group's unit, if it can be. -/
def State.performHead (s : State) (gid : Nat) : State :=
  match s.group? gid with
  | none => s
  | some g =>
    match g.munit.queue with
    | [] => s
    | c :: _ =>
      if !c.miss.isEmpty || c.waits.any s.outstanding || s.beforeCmd g c then s
      else
        match s.performCmd g c with
        | .waits s => s
        | .trap s ts => (s.holdCmd gid c ts).wakeWaits.settle gid
        | .done s v cc fp => s.endCmd gid c v cc fp

/-- MATRIX_COMMAND_PERFORM. -/
def execMatrixCommandPerform (gid : Nat) (s : State) : Host.Outcome State Fault Refusal :=
  .next (match s.group? gid with
    | none => s
    | some g => if g.phase.placed then s.performHead gid else s)

/-! ### Peer arrivals (R200, R201) -/

/-- The command at the head of a group's unit is a MDRAINP that can be sent: its tiles here and at the partner. -/
def State.sends (s : State) (g : Group) : Option (Cmd × Nat × Nat) :=
  match g.munit.queue with
  | [] => none
  | c :: _ =>
    match c.what with
    | .drainp m r => if (g.munit.tileBad m).isSome || c.waits.any s.outstanding then none else some (c, m, r)
    | _ => none

/-- The partner takes an arrival: refused where it has ended or holds no context. -/
def State.arriveAt (s : State) (g : Group) (m r : Nat) : State × Bool :=
  match s.partner g with
  | some (some p) =>
    if (match p.core with | some c => !c.exited | none => false) && decide (p.phase ≠ .discarded) then
      let x := p.munit.arrive r g.munit m
      (s.setUnit p.gid x.1, x.2)
    else (s, false)
  | _ => (s, false)

/-- PEER_ARRIVAL: the tile that group `gid` sends reaches its partner, which accepts or refuses it; the MDRAINP returns. -/
def execPeerArrival (gid : Nat) (s : State) : Host.Outcome State Fault Refusal :=
  .next (match s.group? gid with
    | none => s
    | some g =>
      if !g.phase.placed then s
      else
        match s.sends g with
        | none => s
        | some (c, m, r) =>
          let x := s.arriveAt g m r
          x.1.endCmd gid c none (some { n := false, z := false, c := false, v := !x.2 }) 0#5)

end Sys2Proof.Machine
end

