-- ==== Sys2Proof/Machine/Scheduling.lean ====
section
/-!
DEFINITION. Admission of groups, the time-shared pool, pre-emption, restores and restarts (02 R31, R49, R50; 06 R153; 20 R369
to R381).
-/
namespace Sys2Proof.Machine

/-! ### Admission (R31, R32, R369, R373) -/

/-- The cluster takes groups of a launch: its die is TRUSTED and stays so, and it is not clearing that launch away, nor draining groups of
it (R375). -/
def State.clusterTakes (s : State) (l : Launch) (cluster : Nat) : Bool :=
  let d := s.die (dieOf cluster)
  decide (d.state = .trusted) && !d.planned &&
  (s.cluster cluster).preempts.all fun p => p.vd != l.vd ||
    ((match p.level with | none => false | some n => decide (n ≤ s.effPriority l)) &&
      !(decide (p.choice = .drain) && (s.outgoing cluster p).any fun g => g.launch == l.id))

/-- The groups of a cohort, by any group index of it. -/
def State.cohortOf (s : State) (l : Launch) (f3 f4 f5 : Nat) : List Group :=
  s.groups.filter fun g => g.launch == l.id && g.f3 == f3 && g.f4 == f4 && g.f5 == f5

/-- The partner is not on the cluster (R31). -/
def State.apart (s : State) (l : Launch) (f2 f3 f4 f5 cluster : Nat) : Bool :=
  (s.cohortOf l f3 f4 f5).all fun g => g.f2 != f2 ^^^ 1 || !g.phase.placed || g.cluster != cluster

/-- A team as it is admitted (R71, R47). -/
def State.startTeam (s : State) (g : Group) (l : Launch) (p : Spot) : Team :=
  let h := l.hdr
  let t := newTeam p.tid p.quadrant p.slot p.tid (h.e 0) h.pv h.pg h.o 0
  let seq := (s.seqOf (g.slotOf t) + 1) % 2 ^ 20
  { t with seqCtr := seq, frags := [newFrag (p.entries.headD 0) (h.e 0) h.entry seq s.clock] }

/-- A launch begins on a cluster, which empties the cluster's read-only cache (R131). -/
def State.beginOn (s : State) (id cluster : Nat) : State :=
  match s.launch? id with
  | none => s
  | some l => if l.begunOn.contains cluster then s else (s.setLaunch { l with begunOn := cluster :: l.begunOn }).acquireAt cluster 6

/-- Admit the group of an index to a cluster, if it has room (R373). -/
def State.admitOn (s : State) (l : Launch) (index cluster : Nat) : Option State :=
  let h := l.hdr
  let f2 := index % h.e 2
  let f3 := index / h.e 2 % h.e 3
  let f4 := index / (h.e 2 * h.e 3) % h.e 4
  let f5 := index / (h.e 2 * h.e 3 * h.e 4)
  if !s.clusterTakes l cluster || !s.apart l f2 f3 f4 f5 cluster then none
  else
    (s.placeOn l.vd cluster h.splitmin h.spad h.needs).map fun p =>
      let g : Group :=
        { gid := s.nextGroup, launch := l.id, vd := l.vd, f2 := f2, f3 := f3, f4 := f4, f5 := f5, cluster := cluster,
          die0 := dieOf cluster, phase := .resident, barriers := List.replicate 4 { arrived := 0, gen := 0 },
          rdv := { arrived := 0, core := false, queue := false, gen := 0 }, windows := h.windows, spcheck := h.spcheck,
          splitmin := h.splitmin, base := p.2, spad := h.spad, mem := [], memPoison := [], memTags := [], teams := [],
          core := none, munit := MUnit.empty, queue := none, posted := [], forkCtr := 0, since := s.clock, restarted := false, refused := false, untagged := [], lazyRows := [], lazySpad := [] }
      let g := { g with teams := p.1.map (s.startTeam g l) }
      (({ s with groups := s.groups ++ [g], nextGroup := s.nextGroup + 1 } : State).evict cluster).beginOn l.id cluster

/-- Admit groups, each to the cluster named with it. -/
def State.admitAll (l : Launch) : State → List (Nat × Nat) → Option State
  | s, [] => some s
  | s, i :: is =>
    match s.admitOn l i.1 i.2 with
    | none => none
    | some s => State.admitAll l s is

/-- Scratchpad allocations of n bytes that a share takes beside those it holds, up to a number. -/
def spadCap (share n : Nat) : Nat → List (Nat × Nat) → Nat
  | 0, _ => 0
  | k + 1, used =>
    match firstFit share n used with
    | none => 0
    | some a => 1 + spadCap share n k ((a, n) :: used)

/-- Groups of a launch that a cluster takes as it stands, up to a number. -/
def State.capNow (s : State) (l : Launch) (n cluster : Nat) : Nat :=
  if s.clusterTakes l cluster then
    let ks := s.openQuads l.vd cluster
    let r := roomCap l.hdr (min n 256) (ks.map (s.room cluster))
    if l.hdr.spad = 0 then r else spadCap (32768 * s.banksOf cluster ks) l.hdr.spad r (s.spadUsed l.vd cluster)
  else 0

/-- What clusters take of `pairs` pairs of partners and of `all` groups in all, cluster by cluster until that is enough. -/
def State.capsFor (s : State) (l : Launch) (pairs all : Nat) : List Nat → Nat → Nat → List (Nat × Nat)
  | [], _, _ => []
  | c :: cs, ofPairs, got =>
    if 2 * pairs ≤ ofPairs ∧ all ≤ got then []
    else
      let n := s.capNow l all c
      (c, n) :: s.capsFor l pairs all cs (ofPairs + min n pairs) (got + n)

/-- The pairs of partners of a cohort, and the group that has none (R31). -/
def pairsOf : List Nat → List (Nat × Nat) × List Nat
  | a :: b :: l => let r := pairsOf l; ((a, b) :: r.1, r.2)
  | l => ([], l)

/-- Clusters for cohorts that are to stand on one die, wherever the die has room for them whole: clusters are listed once for
each group that they take, a cluster at most once for each pair, and the two partners of a pair take places that lie the number
of pairs apart, which are of two clusters (R31). -/
def State.assign (s : State) (l : Launch) (choice die : Nat) (cohorts : List (List Nat)) : Option (List (Nat × Nat)) :=
  let parts := cohorts.map pairsOf
  let pairs := parts.flatMap (·.1)
  let singles := parts.flatMap (·.2)
  let n := pairs.length
  let caps := s.capsFor l n (2 * n + singles.length) (rotate choice (dieClusters die)) 0 0
  let places := (caps.flatMap fun c => List.replicate (min c.2 n) c.1).take (2 * n)
  let left := caps.flatMap fun c => List.replicate (c.2 - places.count c.1) c.1
  if places.length < 2 * n ∨ left.length < singles.length then none
  else some ((pairs.map (·.1)).zip places ++ (pairs.map (·.2)).zip (places.drop n) ++ singles.zip left)

/-- The most cohorts of a list, from its first on, that a die takes at once, up to a number; and where they go. -/
def State.mostOn (s : State) (l : Launch) (choice die : Nat) (cohorts : List (List Nat)) : Nat → List (Nat × Nat) × Nat
  | 0 => ([], 0)
  | n + 1 =>
    match s.assign l choice die (cohorts.take (n + 1)) with
    | some x => (x, n + 1)
    | none => s.mostOn l choice die cohorts n

/-- Admit cohorts, each whole to one die: each die in turn takes as many as it can. -/
def State.admitCohorts (l : Launch) (choice : Nat) : State → List Nat → List (List Nat) → Option State
  | s, _, [] => some s
  | _, [], _ => none
  | s, d :: ds, cs =>
    let m := s.mostOn l choice d cs cs.length
    match State.admitAll l s m.1 with
    | none => none
    | some s => State.admitCohorts l choice s ds (cs.drop m.2)

/-- The launch's groups are next to be admitted on its device (R369). -/
def State.mayAdmit (s : State) (l : Launch) : Bool :=
  decide (l.phase = .ready) && l.toAdmit != 0 && s.deviceReady l.vd && !s.trust.hold && s.firstInLine l

/-- Admit the cohort that begins at the launch's next group, or the whole grid of a PERSISTENT launch; none where it may not be, or where no
die has room. -/
def State.admitNext (s : State) (l : Launch) : Option State :=
  let n := l.hdr.cohortSize
  let index := l.hdr.groupsOf - l.toAdmit
  let count := if l.hdr.persistent then l.toAdmit / n else 1
  -- more cohorts than a package can hold are not listed
  if !s.mayAdmit l || n > 18432 || count > 55296 then none
  else
    let cohorts := (List.range count).map fun k => (List.range n).map fun j => index + k * n + j
    let choice := s.oracle.headD 0
    (State.admitCohorts l choice s (rotate (l.die + choice) (List.range 3)) cohorts).map fun s =>
      (s.modLaunch l.id fun l => { l with toAdmit := l.toAdmit - count * n }).popChoice

/-- GROUP_ADMIT, by the index of the launch's next group. -/
def execGroupAdmit (launch index : Nat) (s : State) : Host.Outcome State Fault Refusal :=
  .next (match s.launch? launch with
    | none => s
    | some l => if index + l.toAdmit != l.hdr.groupsOf then s else (s.admitNext l).getD s)

/-! ### Pre-emption (R374, R375) -/

/-- The deferred set of a fragment that has not run yet and that opened no region, where a snapshot of its entry holds it (R38,
R49). -/
def Team.deferredIn (t : Team) (f : Frag) : Option DeferredSet :=
  if f.waits && f.region.isNone then
    (t.frags.filter fun g => g.entry == f.entry && g.frame == f.frame).findSome? fun g =>
      g.region.bind fun r => r.deferred.find? fun d => d.part == f.part
  else none

/-- The group may be discarded: every live fragment of a team that has not exited is inside a region, or a deferred set of one
that is, and no context runs (R50; log 56). -/
def Group.discardable (g : Group) : Bool :=
  !g.coreRuns && g.teams.all fun t => t.exited ||
    ((t.frags.any fun f => f.region.isSome) && t.frags.all fun f => f.region.isSome || (t.deferredIn f).isSome)

/-- Second-stage misses that a group waits for. -/
def State.missesOf (s : State) (gid : Nat) : Nat :=
  (s.vds.flatMap fun v => v.pageReqs.filter fun r => r.waiters.any fun w =>
    match w with | .line q _ => q.gid == gid | .frag a => a.gid == gid | .matrix g => g == gid | _ => false).length

/-- An operation of a team is outstanding for another reason than a second-stage miss: a command of its matrix unit too, unless the one at
the unit's head waits for a miss (R83, R374). -/
def State.otherwiseBusy (s : State) (g : Group) (t : Team) : Bool :=
  t.outs.any fun o => (match o.kind with
      | .held => false
      | .matrix => g.munit.queue.head?.all fun c => c.miss.isEmpty
      | _ => true) &&
    !(s.vds.any fun v => v.pageReqs.any fun r => r.waiters.any fun w =>
      match w with | .line q _ => q.gid == g.gid && q.tid == t.tid && q.op == o.id | _ => false)

/-- What the cluster expects of a save, in clocks: s of R374. The time that an operation still takes comes from the tape, but a
second-stage miss counts 2,000 clocks (log 114). -/
def State.saveClocks (s : State) (gs : List Group) : Nat :=
  let sum (f : Group → Nat) : Nat := (gs.map f).foldl (· + ·) 0
  let busy := gs.any fun g => g.allTeams.any (s.otherwiseBusy g)
  max (if busy then s.oracle.headD 0 else 0) (sum fun g => 2000 * s.missesOf g.gid)
    + 8 * sum (fun g => (g.teams.map fun t => t.entries.length).foldl (· + ·) 0)
    + 128 * sum (fun g => (g.munit.tiles.filter fun t => t.cls != 3).length)
    + 10 * sum (fun g => g.munit.fa.length + g.munit.fb.length)

/-- d of R374: none is infinite. -/
def State.drainClocks (s : State) (gs : List Group) : Option Int :=
  let expect (g : Group) : Nat := ((s.headerOf g).map (·.expect)).getD 0
  if gs.any fun g => expect g == 0 then none
  else some (gs.foldl (fun (m : Int) g => max m (1200 * (expect g : Int) - ((s.clock - g.since : Nat) : Int))) 0)

/-- DEADLINE of a device, in clocks. -/
def deadlineOf (v : VDev) : Nat := 1200 * bitsOf v.sched1.toNat 0 16

/-- choose(cluster) of R374. -/
def State.choosePreempt (s : State) (vd : Nat) (gs : List Group) (quiesce : Bool) : PreemptChoice :=
  if !quiesce && gs.all (fun g => g.discardable && !g.restarted) then .discard
  else
    match s.drainClocks gs with
    | none => .save
    | some d => if d ≤ s.saveClocks gs ∧ d ≤ deadlineOf (s.vd vd) then .drain else .save

/-- Stop a group's issue so that it is saved once its operations have returned. -/
def State.beginSave (s : State) (gid : Nat) : State :=
  match s.group? gid with
  | some g => if g.phase = .resident then (s.setGroup { g with phase := .saving }).settle gid else s
  | none => s

/-- Discard a group: it stops at once. What it has written goes on its way; what it would read, and its scratchpad
accesses, are dropped. -/
def State.discardGroup (s : State) (gid : Nat) : State :=
  match s.group? gid with
  | none => s
  | some g =>
    let drops (r : Req) : Bool := r.gid == gid &&
      (match r.action, r.place.space with
        | .read _, _ => true
        | .prefetch, _ => true
        | _, .scratch _ => true
        | _, _ => false)
    let stop (t : Team) : Team := { t with outs := [], faults := [], frames := [] }
    let s := s.saveGroup { g with teams := g.teams.map stop }
    let s := match s.group? gid with
      | some g => s.setGroup { g with phase := .discarded, lazyRows := [], lazySpad := [] }
      | none => s
    let v := s.vd g.vd
    let s := s.setVd g.vd { v with sched3 := countSched3 v.sched3 1 0 }
    { s with
      reqs := s.reqs.filter fun r => !drops r
      vds := s.vds.map fun v =>
        if v.pageReqs.isEmpty then v
        else { v with pageReqs := v.pageReqs.map fun r =>
          { r with waiters := r.waiters.filter fun w => match w with | .line q _ => !drops q | .frag a => a.gid != gid | _ => true } } }

/-- Clear groups away as a choice says. -/
def State.clearAway (s : State) (gs : List Group) (c : PreemptChoice) : State :=
  match c with
  | .discard => gs.foldl (fun s g => s.discardGroup g.gid) s
  | .drain => s
  | .save => gs.foldl (fun s g => s.beginSave g.gid) s

/-! ### Restores and restarts (R50, R153, R199, R243, R378, R379) -/

/-- The group may come back on a cluster: in its launch's turn (R369), and with its cohort on one die (R366). -/
def State.mayReturnTo (s : State) (g : Group) (l : Launch) (cluster : Nat) : Bool :=
  let d := dieOf cluster
  let home := if (s.die g.die0).state = .trusted then g.die0 else s.trustedDies.headD g.die0
  decide (l.phase = .ready) && s.deviceReady g.vd && !s.trust.hold && s.firstInLine l && s.clusterTakes l cluster && s.apart l g.f2 g.f3 g.f4 g.f5 cluster &&
  (s.cohortOf l g.f3 g.f4 g.f5).all (fun m => !m.phase.placed || dieOf m.cluster == d) && (!l.hdr.cohort || d == home)

/-- The parked FORKs of a group that were executed before one of a place in the order. -/
def Group.forksBefore (g : Group) (order : Nat) : Nat :=
  (g.teams.flatMap fun t => t.frags.filter fun f => match f.park with | .fork _ _ n _ => decide (n < order) | _ => false).length

/-- Move a team to its place, with new entries and a new region for every fragment; its group's parked FORKs come last on the
cluster, in the order in which they were executed (R243). -/
def State.moveTeam (s : State) (g : Group) (t : Team) (p : Spot) : Team :=
  let entry (e : Nat) : Nat := assocGet (t.entries.zip p.entries) e e
  let t := { t with quadrant := p.quadrant, slot := p.slot }
  let n := s.seqOf (g.slotOf t)
  { t with
    seqCtr := (n + t.frags.length) % 2 ^ 20
    frames := t.frames.map fun r => { r with entry := entry r.entry }
    frags := t.frags.zipIdx.map fun x =>
      { x.1 with
        entry := entry x.1.entry, seq := (n + 1 + x.2) % 2 ^ 20, since := s.clock, passed := 0
        park := match x.1.park with | .fork a d n w => .fork a d (s.forkTail g.cluster + g.forksBefore n) w | q => q } }

/-- Place a group on a cluster again, with its context and its queue context; none where there is no room. It takes back what of
it still lies there, and takes the rest from its image (R376). -/
def State.resume (s : State) (g : Group) (h : Header) (cluster : Nat) : Option State :=
  match s.placeOn g.vd cluster g.splitmin g.spad (g.teams.map (·.need h)) with
  | none => none
  | some (spots, base) =>
    let quadrant := if g.coreRuns then (spots.map (·.quadrant)).eraseDups.find? fun q => !s.contextHeld cluster q g.gid
      else some 0
    let ctx := if g.queue.isSome then s.freeContext cluster else some 0
    match quadrant, ctx with
    | some k, some ctx =>
      let q' := g.queue.map fun q => { q with unit := cluster, ctx := ctx }
      let s := match g.queue, q' with
        | some q, some q' => s.renameQueue q q'
        | _, _ => s
      let g := { g with cluster := cluster, base := base, phase := .resident, queue := q', memTags := [], lazyRows := [], lazySpad := [] }
      let teams := (g.teams.zip spots).map fun p => s.moveTeam g p.1 p.2
      let core := g.core.map fun c => s.moveTeam g c { tid := coreTid, quadrant := k, slot := 0, entries := c.entries }
      let stamp (c : RaceCheck) : RaceCheck := match core with
        | some t => { c with slot := g.slotOf t, seq := ((t.frags.head?).map (·.seq)).getD t.seqCtr }
        | none => c
      let cmd (c : Cmd) : Cmd := { c with check := c.check.map stamp }
      let g := { g with teams := teams, core := core,
                        munit := { g.munit with queue := g.munit.queue.map cmd, held := g.munit.held.map cmd } }
      some ((((s.setGroup g).evict cluster).beginOn g.launch cluster).wakeAwaits.settle g.gid)
    | _, _ => none

/-- A register whose tags cannot be read is restored as U, with its two uniform words poisoned and counted (R361, R378). -/
def Group.restoreTags (g : Group) : Group :=
  { g with
    untagged := []
    teams := g.teams.map fun t =>
      let rs := (g.untagged.filter fun x => x.1 == t.tid).map (·.2)
      (rs.foldl (fun t r => t.setReg r { val := .u 0#32, poison := Mask.first t.e0 }) t).countPoison (2 * rs.length) }

/-- GROUP_RESTORE: the group is restored from its image; a choice of 1 is an image that only software at H can have
written, which is refused (R379; log 50). -/
def execGroupRestore (gid cluster : Nat) (s : State) : Host.Outcome State Fault Refusal :=
  .next (match (s.group? gid).bind fun g => (s.launchOf g).map fun l => (g, l) with
    | none => s
    | some (g, l) =>
      if decide (g.phase ≠ .saved) || g.refused || !s.mayReturnTo g l cluster then s
      else if s.oracle.headD 0 = 1 then
        let v := s.vd g.vd
        ((s.setVd g.vd { v with restfail := true }).setGroup { g with refused := true }).popChoice
      else
        match s.resume { g.restoreTags with since := s.clock - g.since } l.hdr cluster with
        | some s => (s.adviseWords l.id (2 * g.untagged.length)).popChoice
        | none => s)

/-- A team rebuilt from its snapshots: one fragment for each, in the lowest entry that carries it (R50), with FPCTL from the lowest
entry of all (R80). A snapshot that was taken in a handler starts at U, as every fragment does (log 97), and the allotment is the
full one when any snapshot was taken after ACQUIRE (log 98). The deferred sets of a snapshot wait in its entry again. -/
def Team.rebuild (t : Team) (h : Header) : Team :=
  if t.exited then t
  else
    let fs := sortBy (fun a b => decide (a.entry ≤ b.entry)) (t.frags.filter fun f => f.region.isSome)
    let firsts := fs.zipIdx.filter fun x => !((fs.take x.2).any fun f => decide (f.region = x.1.region))
    let parts := firsts.map (·.1)
    let snaps := parts.filterMap (·.region)
    let acquired := snaps.any (·.acquired)
    let hist := (t.frags.flatMap (·.hist)).eraseDups
    let rel := (t.frags.flatMap (·.release)).eraseDups
    let waiting := t.frags.filterMap fun f => (t.deferredIn f).map fun d => (f, d)
    let n := newTeam t.tid t.quadrant t.slot t.f1 t.e0 (if acquired then h.fv else h.pv) (if acquired then h.fg else h.pg) h.o t.seqCtr
    { n with
      live := (snaps.map (·.mask) ++ waiting.map (·.2.mask)).foldl (· ||| ·) 0#1024, acquired := acquired
      fpctl := ((fs.head?.bind (·.region)).map (·.fpctl)).getD 1#32, pwcnt := t.pwcnt, joinCtr := t.joinCtr, nextOp := t.nextOp,
      nextFrame := t.nextFrame
      frags := (parts.zipIdx.map fun x =>
          let f := x.1
          match f.region with
          | some r =>
            { newFrag f.entry t.e0 0 0 0 with
              part := f.part, pusher := f.pusher, holds := !((parts.take x.2).any fun g => g.entry == f.entry), mask := r.mask, pc := r.pc,
              joins := r.joins, mode := r.mode, region := some r, hist := hist, release := rel }
          | none => f) ++
        waiting.map fun x =>
          { newFrag x.1.entry t.e0 0 0 0 with
            part := x.1.part, pusher := x.1.pusher, holds := false, waits := true, mask := x.2.mask, pc := x.2.pc, joins := x.1.joins,
            mode := x.2.mode, hist := hist, release := rel } }

/-- GROUP_RESTART: a discarded group runs again from its snapshots, with its scratchpad zero (R50, R128, R375). -/
def execGroupRestart (gid cluster : Nat) (s : State) : Host.Outcome State Fault Refusal :=
  .next (match (s.group? gid).bind fun g => (s.launchOf g).map fun l => (g, l) with
    | none => s
    | some (g, l) =>
      if decide (g.phase ≠ .discarded) || !s.mayReturnTo g l cluster then s
      else
        let g := { g with
          teams := g.teams.map (·.rebuild l.hdr), mem := [], memPoison := [], since := s.clock, restarted := true
          barriers := g.barriers.map fun b => { b with arrived := 0 } }
        match s.resume g l.hdr cluster with
        | some s => s
        | none => s)

/-! ### The pool (R370) -/

/-- The end of the quantum that a device is in, or of one that begins now: all its grants share it. -/
def State.quantumEnd (s : State) (vd : Nat) : Nat :=
  match s.clusters.findSome? fun c => (c.grants.find? fun g => g.vd == vd && !g.spent).map (·.until_) with
  | some t => t
  | none => s.clock + 1200 * quantumOf (s.vd vd)

/-- Grant every free pool quadrant to a device, to see what its groups can use. -/
def State.offer (s : State) (vd : Nat) : State :=
  let until_ := s.quantumEnd vd
  { s with clusters := s.clusters.map fun c => { c with grants :=
      (((List.range 4).filter fun k => (ownerIn c.own k).isNone && (c.grantOf k).isNone).map fun k =>
        { quad := k, vd := vd, until_ := until_, spent := false }) ++ c.grants } }

/-- The groups of a launch that are saved or discarded come back, each on the first cluster that takes it. -/
def State.returnAll (s : State) (l : Launch) : State :=
  (s.groups.filter fun g => g.launch == l.id && !g.phase.placed && !g.refused).foldl (fun s g =>
    ((List.range 216).findSome? fun c => if s.mayReturnTo g l c then s.resume g l.hdr c else none).getD s) s

/-- Admit a launch's groups, cohort by cohort, as far as there is room. -/
def State.admitAllOf (id : Nat) : Nat → State → State
  | 0, s => s
  | n + 1, s => match (s.launch? id).bind s.admitNext with | some s => State.admitAllOf id n s | none => s

/-- The state in which a device's groups have the places that they can take: partners on distinct clusters, and each cohort on one die
(R31). -/
def State.placeAll (s : State) (vd : Nat) : State :=
  (s.wanting vd).foldl (fun s l => State.admitAllOf l.id l.toAdmit (s.returnAll l)) s

/-- Take back the quadrants of an offer that none of the device's groups uses. -/
def State.takeBack (s before : State) (vd : Nat) : State :=
  { s with clusters := s.clusters.zipIdx.map fun c =>
      let offered := (List.range 4).filter fun k => (c.1.grantOf k).isSome && ((before.cluster c.2).grantOf k).isNone
      let mine := s.groups.filter fun g => g.vd == vd && g.cluster == c.2 && g.phase.placed
      let unused := offered.foldr (fun k ks => if mine.any fun g => s.usesQuads g (k :: ks) then ks else k :: ks) []
      { c.1 with grants := c.1.grants.filter fun r => !unused.contains r.quad } }

/-- Groups of a device that no cluster holds. -/
def State.groupsWanting (s : State) (vd : Nat) : Nat :=
  ((s.wanting vd).map fun l => l.toAdmit + (s.groups.filter fun g => g.launch == l.id && !g.phase.placed && !g.refused).length).foldl (· + ·) 0

/-- grant_pool() of R370 over the quadrants that no device holds: the devices next to be served take, in order, what their groups
can use. -/
def State.servePool (s : State) : State :=
  s.poolOrder.2.foldl (fun s d =>
    let t := ((s.offer d).placeAll d).takeBack s d
    if weightOf (s.vd d) = 0 ∧ t.groupsWanting d < s.groupsWanting d then { t with lastServed := d } else t) s

/-- A grant that is open to the other devices: its quantum has ended, or its device is to leave the pool at once. -/
def State.lapsed (s : State) (g : Grant) : Bool := g.spent || s.outranked g.vd

/-- The pool as grant_pool() is to give it: lapsed grants are taken back, and the groups that use them off their clusters, where
they compete for a place with the rest. -/
def State.poolPlan (s : State) : State :=
  if s.clusters.any fun c => c.grants.any s.lapsed then
    let lost (g : Group) : List Nat := ((s.cluster g.cluster).grants.filter fun r => r.vd == g.vd && s.lapsed r).map (·.quad)
    ({ s with
      groups := s.groups.map fun g => if g.phase.placed && s.usesQuads g (lost g) then { g with phase := .saved } else g
      clusters := s.clusters.map fun c => { c with grants := c.grants.filter fun r => !s.lapsed r } } : State).servePool
  else s.servePool

/-- By a plan of the pool, a grant goes to another device, or its device has to leave it to none. -/
def State.losesGrant (s plan : State) (cluster : Nat) (r : Grant) : Bool :=
  s.lapsed r &&
  (match (plan.cluster cluster).grantOf r.quad with
    | some n => n.vd != r.vd
    | none => weightOf (s.vd r.vd) == 0 && s.outranked r.vd)

/-- Carry out a plan of the pool for one quadrant: a free one is given, one whose device uses it stays until the pre-emption has
cleared it, one that its device neither uses nor wants is freed, and a lapsed one that no other device is to have is renewed. -/
def State.settleGrant (plan s : State) (cluster k : Nat) : State :=
  let c := s.cluster cluster
  let next := (plan.cluster cluster).grantOf k
  let put (r : Option Grant) : State := s.setCluster cluster { c with grants := r.toList ++ c.grants.filter (·.quad != k) }
  match c.grantOf k with
  | none => if next.isSome then put next else s
  | some r =>
    let used := s.groups.any fun g => g.vd == r.vd && g.cluster == cluster && g.phase.placed && s.usesQuads g [k]
    if s.losesGrant plan cluster r then (if used then s else put next)
    else if !used && (s.wanting r.vd).isEmpty then put none
    else if r.spent then put (some { r with spent := false, until_ := s.quantumEnd r.vd })
    else s

/-- A grant of a device whose quantum has come to its end, or whose device has no ready work. -/
def State.grantDue (s : State) (vd : Nat) (g : Grant) : Bool :=
  g.vd == vd && !g.spent && (decide (g.until_ ≤ s.clock) || !s.deviceReady vd)

/-- A device's quantum ends: its pass advances by QEFF × 65,536 / WEIGHT, exactly (R12), once for all its grants. -/
def State.endQuantum (s : State) (vd : Nat) : State :=
  if !(s.clusters.any fun c => c.grants.any (s.grantDue vd)) then s
  else
    let v := s.vd vd
    let step := if weightOf v = 0 then 0 else quantumOf v * 65536 * (passUnit / weightOf v)
    let s' := s.setVd vd { v with pass := v.pass + step }
    { s' with clusters := s.clusters.map fun c =>
        { c with grants := c.grants.map fun g => if s.grantDue vd g then { g with spent := true } else g } }

/-- QUANTUM_EXPIRY. -/
def execQuantumExpiry (vd : Nat) (s : State) : Host.Outcome State Fault Refusal := .next (s.endQuantum vd)

/-- POOL_EVENT: the quanta of devices without ready work end, and the pool's quadrants are given as R370 says. -/
def execPoolEvent (s : State) : Host.Outcome State Fault Refusal :=
  let s := (List.range 64).foldl (fun s d => if s.deviceReady d then s else s.endQuantum d) s
  let plan := s.poolPlan
  .next ((List.range 216).foldl (fun s c => (List.range 4).foldl (fun s k => s.settleGrant plan c k) s) { s with lastServed := plan.lastServed })

/-! ### Requests to pre-empt (R374, R380) -/

/-- Why a cluster is asked to pre-empt a device: none if it is not; the level below which its launches go, and the pool
quadrants that change device. -/
def State.preemptReason (s : State) (cluster vd : Nat) (quiesce : Bool) : Option (Option Nat × List Nat) :=
  if quiesce then (if (s.vd vd).quiesce then some (none, []) else none)
  else
    let open_ := (s.cluster cluster).grants.filter fun r => r.vd == vd && s.lapsed r
    let lost := if open_.isEmpty then [] else (open_.filter (s.losesGrant s.poolPlan cluster)).map (·.quad)
    if (s.wanting vd).isEmpty && lost.isEmpty then none else some (some (s.topLevel (s.wanting vd)), lost)

/-- The wider of two scopes of a pre-emption. -/
def widerLevel : Option Nat → Option Nat → Option Nat
  | some a, some b => some (max a b)
  | _, _ => none

/-- Pre-empt the groups of a device on a cluster, with the deadline of its first request; those that are being saved already
count with the rest. -/
def State.preempt (s : State) (cluster vd : Nat) (level : Option Nat) (quads : List Nat) (quiesce : Bool) : State :=
  let c := s.cluster cluster
  let old := c.preempts.find? fun p => p.vd == vd
  let level := match old with | some p => widerLevel p.level level | none => level
  let quads := ((old.map (·.quads)).getD [] ++ quads).eraseDups
  let deadline := (old.map (·.deadline)).getD (s.clock + deadlineOf (s.vd vd))
  let p : Preempt := { vd := vd, level := level, quads := quads, choice := .save, deadline := deadline }
  let gs := s.outgoing cluster p
  let same := match old with | some o => !quiesce && (s.outgoing cluster o).length == gs.length | none => false
  if gs.isEmpty || same then s
  else
    let choice := s.choosePreempt vd gs quiesce
    let s := s.setCluster cluster { c with preempts := { p with choice := choice } :: c.preempts.filter fun p => p.vd != vd }
    ((s.clearAway gs choice).settlePreempts cluster).popChoice

/-- PREEMPT_REQUEST. -/
def execPreemptRequest (cluster vd : Nat) (quiesce : Bool) (s : State) : Host.Outcome State Fault Refusal :=
  .next (match s.preemptReason cluster vd quiesce with
    | none => s
    | some (level, quads) => s.preempt cluster vd level quads quiesce)

/-- A drain of a cluster that has come to its deadline. -/
def State.drainDue (s : State) (p : Preempt) : Bool := decide (p.choice = .drain) && decide (p.deadline ≤ s.clock)

/-- DRAIN_DEADLINE: a drain that has not finished becomes a save. -/
def execDrainDeadline (cluster : Nat) (s : State) : Host.Outcome State Fault Refusal :=
  let c := s.cluster cluster
  let due := c.preempts.filter s.drainDue
  .next (if due.isEmpty then s
    else
      let gs := due.flatMap (s.outgoing cluster)
      let s := s.setCluster cluster { c with preempts := c.preempts.map fun p => if s.drainDue p then { p with choice := .save } else p }
      (s.clearAway gs .save).settlePreempts cluster)

end Sys2Proof.Machine
end

