-- ==== Sys2Proof/Machine/System.lean ====
section
/-!
DEFINITION. System instructions, opcodes 0x70 to 0x75, and unassigned opcodes (16 R335 to R342; 09 R207; 19 R362; 03 R79).
-/
namespace Sys2Proof.Machine

/-! ### System registers (R79, R337, R362) -/

/-- The numbers of R362 that are assigned. -/
def sysAssigned (n : Nat) : Bool :=
  n == 0 || (decide (0x10 ≤ n) && decide (n ≤ 0x1B)) || (decide (0x20 ≤ n) && decide (n ≤ 0x25)) || n == 0x30
/-- The numbers that need privilege S. -/
def sysNeedsS (n : Nat) : Bool := n != 0 && n != 0x30

/-- A number that SYSR or SYSW refuses at the fragment's privilege. -/
def Here.sysIllegal (h : Here) (n : Nat) : Bool := !sysAssigned n || (sysNeedsS n && !h.frag.priv)

/-- The fragment's frame. -/
def Here.frame (h : Here) : Option Frame := h.frag.frame.bind h.team.frame?

/-- What SYSR reads. -/
def State.sysRead (s : State) (h : Here) (n : Nat) : Word :=
  let l := s.launchOf h.group
  let lo (v : Nat) : Word := BitVec.ofNat 32 v
  let hi (v : Nat) : Word := BitVec.ofNat 32 (v / 2 ^ 32)
  if n = 0 then h.team.fpctl
  else if n ≤ 0x17 then (h.frame.bind fun r => r.flt[n - 0x10]?).getD 0#32
  else if n = 0x18 then lo ((h.frame.map fun r => r.pcResume.toNat).getD 0)
  else if n = 0x19 then hi ((h.frame.map fun r => r.pcResume.toNat).getD 0)
  else if n = 0x1A then lo ((h.frame.map (·.pte)).getD 0)
  else if n = 0x1B then hi ((h.frame.map (·.pte)).getD 0)
  else if n = 0x20 then lo ((l.map (·.trapvec)).getD 0)
  else if n = 0x21 then hi ((l.map (·.trapvec)).getD 0)
  else if n = 0x22 then lo ((l.map (·.endva)).getD 0)
  else if n = 0x23 then hi ((l.map (·.endva)).getD 0)
  else if n = 0x24 then (l.map (·.advmask)).getD 0#32
  else if n = 0x25 then h.team.pwcnt
  else if h.frag.priv then 1#32 else 0#32

/-- SYSR: PWCNT is cleared by the read. -/
def execSysr (y : Bool) (d : BitVec 8) (n : BitVec 16) (s : State) : Host.Outcome State Fault Refusal :=
  issueS s fun h =>
    let v := s.sysRead h n.toNat
    let sh := h.oneShape
    s.put (h.run y { word := wordOf (.sysr y d n), illop := h.sysIllegal n.toNat, writes := [(d.toNat, 1)], act := h.active,
                     grow := growOf sh d.toNat 1 } fun h =>
      let h := if n = 0x25#16 ∧ h.active ≠ 0#1024 then { h with team := { h.team with pwcnt := 0#32 } } else h
      (h.write d.toNat 1 h.active sh fun _ => v.toNat, none))

/-- A value that a register of R362 refuses: an MBZ bit set, or a reserved value (R11). A CAUSE that R354 reserves is refused by none, since
CAUSE of FLT0 is read-only, so that what is written there is ignored (log 135). -/
def sysRefuses (n v : Nat) : Bool :=
  match n with
  | 0 => bitsOf v 15 17 != 0 || bitOf v 3 || bitsOf v 0 3 == 0 || decide (6 ≤ bitsOf v 0 3)
  | 0x10 | 0x13 => bitsOf v 10 22 != 0
  | 0x19 => bitsOf v 16 16 != 0
  | 0x20 => bitsOf v 0 2 != 0
  | 0x21 => bitsOf v 16 16 != 0
  | 0x23 => bitsOf v 16 16 != 0
  | 0x24 => bitOf v 0 || bitsOf v 7 25 != 0
  | _ => false

/-- FPCTL after a write: the sticky flags that are written 1 are cleared. -/
def fpctlWrite (old new : Word) : Word := (new &&& ~~~0x1F0#32) ||| (old &&& 0x1F0#32 &&& ~~~new)

/-- A launch after a write of one of its registers: the high half installs the pair. -/
def Launch.sysWrite (l : Launch) (n v : Nat) : Launch :=
  match n with
  | 0x20 => { l with trapvecLo := some (BitVec.ofNat 32 v) }
  | 0x21 => { l with trapvec := ((l.trapvecLo.map (·.toNat)).getD (l.trapvec % 2 ^ 32)) + 2 ^ 32 * v, trapvecLo := none }
  | 0x22 => { l with endvaLo := some (BitVec.ofNat 32 v) }
  | 0x23 => { l with endva := ((l.endvaLo.map (·.toNat)).getD (l.endva % 2 ^ 32)) + 2 ^ 32 * v, endvaLo := none }
  | 0x24 => { l with advmask := BitVec.ofNat 32 v }
  | _ => l

/-- SYSW: registers that are read-only keep their value. -/
def execSysw (y : Bool) (d : BitVec 8) (n : BitVec 16) (s : State) : Host.Outcome State Fault Refusal :=
  issueS s fun h =>
    let w := wordOf (.sysw y d n)
    let v := (h.read d.toNat (h.active.lowest h.team.e0)).toNat
    let u : Uses := { word := w, illop := h.sysIllegal n.toNat, reads := [(d.toNat, 1)], act := h.active,
                      poison := h.oncePoison [(d.toNat, 1)] }
    let acts := (h.check u).isNone && h.active != 0#1024 && !sysRefuses n.toNat v
    let s' := s.put (h.run y u fun h =>
      if h.active = 0#1024 then (h, none)
      else if sysRefuses n.toNat v then (h, some { cause := cILLOP, detail := w })
      else if n = 0#16 then ({ h with team := { h.team with fpctl := fpctlWrite h.team.fpctl (BitVec.ofNat 32 v) } }, none)
      else if n = 0x25#16 then ({ h with team := { h.team with pwcnt := BitVec.ofNat 32 v } }, none)
      else (h, none))
    match acts, s'.launchOf h.group with
    | true, some l => s'.setLaunch (l.sysWrite n.toNat v)
    | _, _ => s'

/-! ### Translation upkeep (R338, R339) -/

/-- The place of a first-stage entry by guest physical address, through the range table as a write. -/
def State.ptwPlace (s : State) (vd gpa : Nat) : LineAnswer :=
  match (s.vd vd).range gpa .write with
  | .miss => .miss gpa false
  | .perm => .bad { cause := cPERM, addr := gpa, detail := 1#32 } none
  | .world hpa => .bad { cause := cPERM, addr := gpa, detail := 2#32 } (some (hpa, .write))
  | .ok hpa keyid =>
    let p := (s.vd vd).tablePlace gpa hpa keyid
    if s.worldDenies vd p then .bad { cause := cPERM, addr := gpa, detail := 2#32 } (some ((s.served vd p false).addr + hpa % 128, .write)) else .ok p

/-- PTW: the checks in order, then one write of 8 bytes; the fragment parks until it is performed. -/
def execPtw (y : Bool) (a b : BitVec 8) (s : State) : Host.Outcome State Fault Refusal :=
  issueS s fun h =>
    let u : Uses := { word := wordOf (.ptw y a b), illop := !h.frag.priv, reads := [(a.toNat, 2), (b.toNat, 2)], act := h.active,
                      poison := h.oncePoison [(a.toNat, 2), (b.toNat, 2)] }
    match h.check u with
    | some t => s.put (h.raise u.act t)
    | none =>
      let h := { h with fresh := if h.readsFree u then h.fresh + 4096 else h.fresh }
      if h.active = 0#1024 then s.put { h with frag := h.frag.finish y }
      else
        let lane := h.active.lowest h.team.e0
        let gpa := h.readN a.toNat 2 lane
        if gpa % 8 ≠ 0 then s.put (h.raise h.active { cause := cALIGN, addr := gpa, detail := 0x80000000#32 })
        else if 2 ^ 48 ≤ gpa then s.put (h.raise h.active { cause := cBOUNDS, addr := gpa, detail := 0x80000000#32 })
        else
          let r (p : Place) : Req :=
            { id := s.nextReq, root := s.nextReq, later := [], gid := h.group.gid, tid := h.team.tid, op := h.team.nextOp, vd := h.group.vd, cluster := h.group.cluster,
              action := .ptw, place := p, va := gpa / 128 * 128,
              lanes := (h.active.lanes h.team.e0).map fun t =>
                { lane := t, off := gpa % 128, len := 8, data := if t = lane then leBytes 8 (h.readN b.toNat 2 lane) else [], at_ := 0 },
              src := h.source, flow := none, scope := 0, hint := 0, waits := h.frag.release.filter s.outstanding, once := true,
              pub := false, check := none, landed := false, via := (s.vd h.group.vd).rangeNumber gpa }
          let f := Frag.finish y { h.frag with park := .ptw s.nextReq, hist := h.frag.hist.filter s.unsettled ++ [s.nextReq] }
          let parked : State := ({ s with nextReq := s.nextReq + 1 } : State).put
            { h with frag := f, team := { h.team with nextOp := h.team.nextOp + 1 } }
          match s.ptwPlace h.group.vd gpa with
          | .ok p => { parked with reqs := parked.reqs ++ [r p] }
          | .bad t log => (s.logDrop (h.group.slotOf h.team) h.group.vd log).put (h.raise h.active t)
          | .miss g _ =>
            parked.pageMiss h.group.vd (dieOf h.group.cluster) (h.group.slotOf h.team) 0 g 0 true
              [.line (r { space := .device, addr := 0, keyid := 0, dual := none }) g]

/-- A fragment's earlier writes that are not performed yet, the slot stores of a QWRITE or QPOST among them. -/
def State.openWrites (s : State) (f : Frag) : List Nat :=
  f.hist.filter fun id => s.outstanding id && ((s.actionOf id).map fun x => x.isWrite || decide (x = .flush)).getD true

/-- The shared course of both forms of INVL: the fragment parks until its writes are performed, and the translations go. -/
def State.invl (s : State) (h : Here) (y : Bool) (w : Word) (a : BitVec 8) (page : Bool) : State :=
  let u : Uses := { word := w, illop := !h.frag.priv, reads := [(a.toNat, 2)], act := h.active, poison := h.oncePoison [(a.toNat, 2)] }
  match h.check u with
  | some t => s.put (h.raise u.act t)
  | none =>
    let h := { h with fresh := if h.readsFree u then h.fresh + 4096 else h.fresh }
    if h.active = 0#1024 then s.put { h with frag := h.frag.finish y }
    else
      let va := h.readN a.toNat 2 (h.active.lowest h.team.e0)
      if page ∧ 2 ^ 48 ≤ va then s.put (h.raise h.active { cause := cBOUNDS, addr := va, detail := 0x80000000#32 })
      else
        let before := s.openWrites h.frag
        let p := if page then some va else none
        let s' := s.put { h with frag := Frag.finish y { h.frag with park := .invl before p [] } }
        if before.isEmpty then s'.invalidate s.cur h.group.vd p else s'

/-- INVL of a page. -/
def execInvlPage (y : Bool) (a : BitVec 8) (s : State) : Host.Outcome State Fault Refusal :=
  issueS s fun h => s.invl h y (wordOf (.invlPage y a)) a true
/-- INVL of every page. -/
def execInvlAll (y : Bool) (a : BitVec 8) (s : State) : Host.Outcome State Fault Refusal :=
  issueS s fun h => s.invl h y (wordOf (.invlAll y a)) a false

/-! ### REPLACE (R340) and DCFLUSH (R341) -/

/-- The held matrix instruction that the fragment's frame is about holds register `r` no longer. -/
def Here.freeHeld (h : Here) (r : Nat) : Here :=
  let op := h.group.munit.held.head?.map (·.op)
  if (h.frame.map (·.held)).getD false then
    { h with team := { h.team with outs := h.team.outs.map fun (o : Out) =>
        if (some o.id) = op then { o with writes := o.writes.filter (· != r) } else o } }
  else h

/-- REPLACE. A destination number that the team does not have is no destination (log 54); it makes no entry in the
last-result file (log 9). The register may be pending only for the held instruction that the frame is about (R84). -/
def execReplace (y : Bool) (a : BitVec 8) (w : BitVec 2) (s : State) : Host.Outcome State Fault Refusal :=
  issue s fun h =>
    let target := h.frame.bind fun r => r.dest[w.toNat]?
    let known := match target with
      | none => false
      | some r => decide (0xD0 ≤ r) || (if r < 0xC0 then decide (r < h.team.vCount) else decide (r - 0xC0 < h.team.oCount))
    let r := target.getD 0xD0
    let sh : Shape := if r < 0xC0 then h.shapeOf .mov h.active [h.shapeWord a.toNat] else .g
    let u : Uses := { word := wordOf (.replace y a w), illop := !h.frag.priv || !known, reads := [(a.toNat, 1)],
                      writes := if r < 0xD0 then [(r, 1)] else [], act := h.active,
                      grow := if r < 0xC0 then growOf sh r 1 else [] }
    match (h.freeHeld r).check u with
    | some t => h.raise u.act t
    | none =>
      let h := if 0xD0 ≤ r ∨ h.active = 0#1024 then h else h.freeHeld r
      let tm := if 0xD0 ≤ r ∨ h.active = 0#1024 then h.team
        else h.team.setReg r ((h.team.reg r).write h.team.e0 h.active sh fun t => h.read a.toNat t)
      { h with team := tm, frag := h.frag.finish y }

/-- DCFLUSH: one request for each line that passes the checks and translates. -/
def execDcflush (y : Bool) (b k : BitVec 4) (i : BitVec 8) (s : State) : Host.Outcome State Fault Refusal :=
  issueS s fun h =>
    let u : Uses := { word := wordOf (.dcflush y b k i), reads := [(i.toNat, 1)], brec := some b.toNat, act := h.active }
    match h.check u with
    | some t => s.put (h.raise u.act t)
    | none =>
      let h := { h with fresh := if h.readsFree u then h.fresh + 4096 else h.fresh }
      let buf := h.recordBuf b.toNat
      let m : MemOp := { access := .read, action := .flush, flow := h.flowOf b.toNat }
      let pieces := (h.active.lanes h.team.e0).filterMap fun t =>
        match buf.addr ((h.read i.toNat t).toNat + k.toNat) with
        | .ok a =>
          let p : Piece := { lane := t, addr := a, len := 2 ^ buf.log2, data := [], at_ := 0 }
          if a % 2 ^ buf.log2 ≠ 0 then none else some p
        | .error _ => none
      if pieces.isEmpty then s.put { h with frag := h.frag.finish y }
      else
        let h := { h with team := { h.team with nextOp := h.team.nextOp + 1 } }
        let r := s.sendLines h (h.team.nextOp - 1) h.active false m pieces
        r.1.put { r.2.1 with frag := r.2.1.frag.finish y }

/-! ### Unassigned opcodes (R207) -/

/-- A word whose opcode is unassigned traps ILLOP. -/
def execUnassignedOpcode (w : Word) (s : State) : Host.Outcome State Fault Refusal :=
  issue s fun h => h.raise h.frag.acting { cause := cILLOP, detail := w }

end Sys2Proof.Machine
end

