-- ==== Sys2Proof/Machine/PageEvents.lean ====
section
/-!
DEFINITION. Events of address translation: the root registers, range-table and publish-entry updates, and the page-request
and reply rings (21 R383 to R394).
-/
namespace Sys2Proof.Machine

/-! ### Tables (R383, R386, R387) -/

/-- The driver writes a root register. The device's translations are discarded, and walks use the new root once the
accesses that used them are performed (R339). -/
def State.writeFsroot (s : State) (vd n : Nat) (value : Word) : State :=
  let v := s.vd vd
  let d := s.discardTlb vd none
  let ids := (((v.oldRoot.map (·.2)).getD []) ++ d.2).filter s.outstanding
  let old := if ids.isEmpty then none else some ((s.rootPending vd).getD v.root, ids)
  if n = 0 ∧ value.toNat % 4096 = 0 then d.1.setVd vd { v with fsroot0 := value, oldRoot := old }
  else if n = 1 ∧ value.toNat < 65536 then d.1.setVd vd { v with fsroot1 := value, oldRoot := old }
  else s

/-- FSROOT_WRITE. -/
def execFsrootWrite (vd n : Nat) (value : Word) (s : State) : Host.Outcome State Fault Refusal := .next (s.writeFsroot vd n value)

/-- The 128 bits of four staged words. -/
def stagedBits (w : List Word) : BitVec 128 :=
  BitVec.ofNat 128 ((List.range 4).foldl (fun n k => n + (w.getD k 0#32).toNat * 2 ^ (32 * k)) 0)

/-- MBZ bits of a range entry (R385), and of a publish entry (R387). -/
def rangeMbz (e : Nat) : Bool :=
  bitsOf e 108 20 == 0 && bitsOf e 99 2 == 0 && bitsOf e 91 5 == 0 && bitsOf e 59 5 == 0 && bitsOf e 27 5 == 0
def pubMbz (e : Nat) : Bool := bitsOf e 97 31 == 0 && bitsOf e 91 5 == 0 && bitsOf e 59 5 == 0 && bitsOf e 27 5 == 0

/-- The accesses in flight that translated through a range entry. -/
def State.throughRange (s : State) (vd i : Nat) : List Nat :=
  (s.reqs.filter fun r => r.vd == vd && r.via.contains i).map (·.root)

/-- RANGE_UPDATE: a write of RTCMD: the staged image replaces an entry, and the translations formed through the old one
are discarded; BUSY stands until the accesses that used them are performed. -/
def execRangeUpdate (vd : Nat) (cmd : Word) (s : State) : Host.Outcome State Fault Refusal :=
  let v := s.vd vd
  let i := bitsOf cmd.toNat 0 6
  let new := stagedBits v.rtstage
  .next (if v.rtBusy.isSome ∨ bitsOf cmd.toNat 6 25 ≠ 0 ∨ 48 ≤ i ∨ !rangeMbz new.toNat then s
    else
      { s.setVd vd { v with ranges := v.ranges.set i new, rtBusy := some (s.throughRange vd i) } with
        tlb := s.tlb.filter fun e => !(e.vd == vd && e.via.contains i)
        walkCache := s.walkCache.filter fun p => !(p.vd == vd && p.via.contains i) })

/-- RANGE_UPDATE_DONE: BUSY clears. -/
def execRangeUpdateDone (vd : Nat) (s : State) : Host.Outcome State Fault Refusal :=
  let v := s.vd vd
  .next (match v.rtBusy with
    | some ids => if ids.all fun id => !s.outstanding id then s.setVd vd { v with rtBusy := none } else s
    | none => s)

/-- Two used ranges of GPA overlap. -/
def overlaps (a b : BitVec 128) : Bool :=
  rangeLen a != 0 && rangeLen b != 0 && decide (rangeGbase a < rangeGbase b + rangeLen b) && decide (rangeGbase b < rangeGbase a + rangeLen a)

/-- PUBLISH_ENTRY_UPDATE: a write of PUBCMD; RESULT says why an update is refused. -/
def execPublishEntryUpdate (vd : Nat) (cmd : Word) (s : State) : Host.Outcome State Fault Refusal :=
  let v := s.vd vd
  let i := bitsOf cmd.toNat 0 3
  let image := (stagedBits v.pubstage).toNat
  let e := BitVec.ofNat 128 (image - (if bitOf image 96 then 2 ^ 96 else 0))
  -- one entry holds the whole range, and none before it any part
  let covered := match v.ranges.findIdx? (overlaps e) with
    | some k =>
      let r := v.ranges.getD k 0#128
      decide (rangeGbase r ≤ rangeGbase e) && decide (rangeGbase e + rangeLen e ≤ rangeGbase r + rangeLen r)
    | none => false
  let clash := (List.range 8).any fun k => k != i && overlaps e (v.pubs.getD k 0#128)
  .next (if v.pubBusy ∨ bitsOf cmd.toNat 3 25 ≠ 0 then s
    else if !pubMbz image then s.setVd vd { v with pubResult := 2 }
    else if rangeLen e ≠ 0 ∧ (!covered || clash) then s.setVd vd { v with pubResult := 1 }
    else s.setVd vd { v with pubs := v.pubs.set i e, pubResult := 0, pubBusy := true })

/-! ### Rings (R392 to R394) -/

/-- PRQR_ADVANCE: the hypervisor has consumed requests; those that waited for room are written. -/
def execPrqrAdvance (vd : Nat) (value : Word) (s : State) : Host.Outcome State Fault Refusal :=
  let v := s.vd vd
  .next ((s.setVd vd { v with prqr := value }).writePageReqs vd (v.pageReqs.length + 1))

/-- The pieces of a request, as its line is translated again. -/
def Req.pieces (r : Req) : List Piece :=
  r.lanes.map fun la => { lane := la.lane, addr := r.va / 128 * 128 + la.off, len := la.len, data := la.data, at_ := la.at_ }

/-- Translate a held request again. -/
def State.heldAnswer (s : State) (r : Req) : LineAnswer :=
  if r.action = .ptw then s.ptwPlace r.vd (r.va + (r.lanes.head?.map (·.off)).getD 0)
  else s.pieceAnswer r.cluster r.vd { access := r.action.access, action := r.action, check := r.check } r.pieces

/-- S2DENY of a held line (R354). -/
def denyTrap (addr gpa : Nat) : Trap := { cause := cS2DENY, addr := addr, detail := BitVec.ofNat 32 (gpa / 65536), rank := rankS2DENY }

/-- What a reply does to a held request. -/
def State.replyLine (s : State) (deny : Bool) (r : Req) (gpa : Nat) : State :=
  let slot := ((s.group? r.gid).bind fun g => (g.team? r.tid).map g.slotOf).getD 0
  let s := if deny then s.faultHeld r (denyTrap (if r.action = .ptw then gpa else r.firstAddr) gpa)
    else
      match s.heldAnswer r with
      | .ok place =>
        if r.action = .ptw then { s with reqs := s.reqs ++ [{ r with place := place, via := (s.vd r.vd).rangeNumber (r.va + (r.lanes.head?.map (·.off)).getD 0) }] }
        else
          let w := s.translate r.cluster r.vd (r.va / 128 * 128) r.action.access
          { s with reqs := s.reqs ++ [{ r with place := place, via := w.via }] }.keepTlb r.cluster r.vd (r.va / 128 * 128) r.action.access w
      | .miss g t => s.pageMiss r.vd (dieOf r.cluster) slot (if r.action = .ptw then 0 else r.va) g (if t then 1 else 0) (r.action.access == .write) [.line r g]
      | .bad t log =>
        (s.logDrop slot r.vd log).faultHeld r { t with addr := if t.addr / 128 = r.va / 128 then r.firstAddr else t.addr }
  s.settle r.gid

/-- What a reply does to a fragment that waits for a fetch: it fetches again, or traps. -/
def State.replyFetch (s : State) (deny : Bool) (a : AgentId) : State :=
  match ({ s with cur := a } : State).here with
  | none => s
  | some h =>
    match h.frag.park with
    | .fetch gpa =>
      let f := { h.frag with park := .none, since := s.clock }
      { s with cur := a }.put (if deny then { h with frag := f }.raise h.frag.acting (denyTrap f.pc.toNat gpa) else { h with frag := f })
    | _ => s

/-- The launches of a queue whose end waits for a page request go on at its reply: a denied end record is not written, a denied status
leaves the launch without a report, which is counted, and a denied advance stops at the slots whose status can be read (R149, R163, R359,
R394; log 140). -/
def State.replyLaunches (s : State) (p : PageReq) (deny : Bool) (q : QueueId) : State :=
  (s.launches.filter fun l => decide (l.queue = q) && decide (l.endMiss = some (p.die, p.unit))).foldl (fun s l =>
    let l : Launch := { l with endMiss := none }
    let s := s.setLaunch l
    if !s.serverUp q then s
    else
      match deny, l.stage with
      | false, _ => s.settleLaunch l.id
      | true, .record => (s.setLaunch { l with stage := .status }).settleLaunch l.id
      | true, .status => (s.countError q).launchGone l
      | true, .advance =>
        match l.ring.map fun r => s.advanceCptr q r true with
        | some (.ok s) => s.launchGone l
        | _ => (s.countError q).launchGone l) s

/-- A packet whose start was denied is consumed without effect: its ring cannot be read; those parked behind it are woken in turn (R180,
R184). -/
def State.denyStart (s : State) (q : QueueId) (slot : Nat) : State :=
  let s := match s.queue? q with
    | some x =>
      match x.head with
      | some p => if p.slot = slot ∧ !p.started then (s.setQueue { x with head := none }).dropPacket q p else s
      | none => s
    | none => s
  match s.side.find? fun e => decide (e.2.1 = q) && !e.2.2.started && e.2.2.slot == slot with
  | some e => ((s.putSide e none).dropPacket q e.2.2).wakeRings (s.ringsOf q e.2.2)
  | none => s

/-- A packet whose run was denied ends with FAULT at the address; a COPY under SHADOW has written nothing then (R181, R394). -/
def State.denyRun (s : State) (q : QueueId) (slot va : Nat) : State :=
  match s.current q with
  | some (p, side) =>
    if p.slot ≠ slot then s
    else s.putCurrent q side (some { p with code := some stFAULT, fva := va, done := if p.type = 1 ∧ p.shadow then 0 else p.done })
  | none => s

/-- A packet whose report was denied: one whose status could not be written is counted; one whose status is written has CPTR advance past
the statuses that can be read (R163, R182, R394; log 140). -/
def State.denyReport (s : State) (q : QueueId) (slot : Nat) : State :=
  match s.current q with
  | some (p, side) =>
    if p.slot ≠ slot then s
    else
      match p.reported, p.ring.map fun r => s.advanceCptr q r true with
      | true, some (.ok s) => s.finishPacket q p side
      | _, _ => (s.countError q).finishPacket q p side
  | none => s

/-- The driver has rewritten the descriptor of a halted queue with QSTATE 0: it runs again once its device does (R159). A descriptor
that misses the second stage is looked at again at the reply. -/
def State.resumeQueue (s : State) (x : Queue) : State :=
  if !x.halted || !x.rewritten || (s.vd x.id.vd).quiesce then s
  else
    match s.desc x.id.vd x.id.desc with
    | .ok d => if d.qstate = 0 then s.setQueue { x with halted := false, rewritten := false } else s
    | .error (.miss g t) => s.queueMiss x.id g t x.id.desc false .rewrite
    | .error b => s.logBad x.id false b

/-- What a reply does to a queue's server: a look at its descriptor or slot that is denied halts it (R161). A server whose die is not
TRUSTED does nothing of it; it asks again once it runs (R26). -/
def State.replyQueue (s : State) (p : PageReq) (deny : Bool) (q : QueueId) : State :=
  let s := match s.queue? q with
    | none => s
    | some x =>
      if x.miss ≠ some (p.die, p.unit) then s
      else
        let x := { x with miss := none }
        let runs (s : State) : State := if x.halted then s else s.setQstate q 0
        if !s.serverUp q then s.setQueue x
        else
          match x.missFor, deny with
          | .rewrite, true => s.setQueue x
          | .rewrite, false => (s.setQueue x).resumeQueue x
          | .slot, true => s.haltQueue x
          | .start k, true => runs ((s.setQueue x).denyStart q k)
          | .run k va, true => runs ((s.setQueue x).denyRun q k va)
          | .complete k, true => runs ((s.setQueue x).denyReport q k)
          | _, false => runs (s.setQueue x)
  s.replyLaunches p deny q

/-- What a reply does to the held accesses from outside: they are tried again, or answered with an error (R394, R441). -/
def State.replyOutside (s : State) (vd : Nat) (p : PageReq) (deny : Bool) : State :=
  let mine (x : HostReq) : Bool := x.vd == vd && x.miss == some (p.die, p.unit)
  let answered := deny && s.outside.any fun x => mine x && (match x.what with | .aperture .. => true | _ => false)
  { s with
    outside := if deny then s.outside.filter fun x => !mine x else s.outside.map fun x => if mine x then { x with miss := none } else x
    hostReply := if answered then none else s.hostReply }

/-- What a reply does to a waiter. -/
def State.replyWaiter (s : State) (p : PageReq) (deny : Bool) (w : Waiter) : State :=
  match w with
  | .line r gpa => s.replyLine deny r gpa
  | .frag a => s.replyFetch deny a
  | .queue q => s.replyQueue p deny q
  | .matrix gid => s.modGroup gid fun g =>
      { g with munit := { g.munit with queue := match g.munit.queue with
          | c :: cs => c.answered p deny :: cs
          | [] => [] } }
  | .outside vd => s.replyOutside vd p deny
  | .count q => if deny then s else s.countError q
  | .qstate q => match deny, s.queue? q with
    | false, some x => s.writeQstate q x.qstate
    | _, _ => s

/-- PAGE_REPLY: the reply at RPQR is consumed. One that names no outstanding request, or holds a reserved or MBZ value, has
no effect. -/
def execPageReply (vd : Nat) (s : State) : Host.Outcome State Fault Refusal :=
  let v := s.vd vd
  .next (if v.rpqr = v.rpqw then s
    else
      let bits := s.host.value (VDev.base v.rpq + 16 * (v.rpqr.toNat % 2 ^ bitsOf v.rqcfg.toNat 4 4)) 16
      let v := { v with rpqr := v.rpqr + 1#32 }
      let s := s.setVd vd v
      match v.pageReqs.find? fun r => r.written && r.rid == bitsOf bits 0 16 && r.die == bitsOf bits 16 8 with
      | none => s
      | some p =>
        if bitsOf bits 26 102 ≠ 0 ∨ 2 ≤ bitsOf bits 24 2 then s
        else
          let s := s.setVd vd { v with pageReqs := v.pageReqs.filter fun r => !(r.rid == p.rid && r.die == p.die) }
          p.waiters.foldl (fun s w => s.popChoice.replyWaiter p (bitsOf bits 24 2 == 1) w) s)

end Sys2Proof.Machine
end

