-- ==== Sys2Proof/Machine/Partition.lean ====
section
/-!
DEFINITION. Partitions: owners and banks of quadrants, policy, L2 shares, rates, resets and creation of devices, quiescence,
and memory keys (20 R371, R372, R380; 23 R415 to R424).
-/
namespace Sys2Proof.Machine

/-! ### Quadrants and banks (R415, R416) -/

/-- A quadrant holds a resident group. -/
def State.quadrantHeld (s : State) (cluster k : Nat) : Bool :=
  s.groups.any fun g => g.cluster == cluster && g.phase.placed && g.allTeams.any fun t => t.quadrant == k

/-- The banks of quadrant k in an image of CLSPB: the first and their number. -/
def banksIn (spb : Word) (k : Nat) : Nat × Nat :=
  ((List.range k).foldl (fun n j => n + bitsOf spb.toNat (6 * j) 6) 0, bitsOf spb.toNat (6 * k) 6)

/-- CLQOWN_WRITE: what saved groups left in place on the cluster is evicted (R416); discarded whole where it sets an MBZ bit or changes the owner of a quadrant that holds a resident group. -/
def execClqownWrite (cluster : Nat) (value : Word) (s : State) : Host.Outcome State Fault Refusal :=
  let c := s.cluster cluster
  let ks := List.range 4
  .next (if ks.any fun k => value.getLsbD (8 * k + 6) || (decide (ownerIn c.own k ≠ ownerIn value k) && s.quadrantHeld cluster k) then s
    else (s.setCluster cluster { c with own := value, grants := c.grants.filter fun g => (ownerIn value g.quad).isNone }).evictAll fun g => g.cluster == cluster)

/-- CLSPB_WRITE: what saved groups left in place on the cluster is evicted (R416); discarded whole where the counts do not sum to 48 or the banks of such a quadrant change. -/
def execClspbWrite (cluster : Nat) (value : Word) (s : State) : Host.Outcome State Fault Refusal :=
  let c := s.cluster cluster
  let ks := List.range 4
  let sum := (ks.map fun k => (banksIn value k).2).foldl (· + ·) 0
  .next (if bitsOf value.toNat 24 8 ≠ 0 ∨ sum ≠ 48 ∨
      (ks.any fun k => decide (banksIn c.spb k ≠ banksIn value k) && s.quadrantHeld cluster k) then s
    else (s.setCluster cluster { c with spb := value }).evictAll fun g => g.cluster == cluster)

/-! ### Policy, L2 shares and rates (R417 to R421) -/

/-- VDPOL_WRITE: a non-secure write is discarded whole when the device or the image is secure. -/
def execVdpolWrite (vd : Nat) (value : Word) (secure : Bool) (s : State) : Host.Outcome State Fault Refusal :=
  let v := s.vd vd
  let sceil := value.toNat % 8
  .next (if 16 ≤ value.toNat ∨ sceil < 4 ∨ sceil = 7 ∨ (!secure && (v.secure || value.getLsbD 3)) then s
    else s.setVd vd { v with pol := value })

/-- VDL2_WRITE: discarded whole while a change is in progress. -/
def execVdl2Write (vd : Nat) (value : Word) (s : State) : Host.Outcome State Fault Refusal :=
  let v := s.vd vd
  let lg := bitsOf value.toNat 9 4
  .next (if v.l2Busy || bitsOf value.toNat 13 18 != 0 || decide (9 < lg) || bitsOf value.toNat 0 9 % 2 ^ lg != 0 then s
    else s.setVd vd { v with l2 := value &&& 0x7FFFFFFF#32, l2Busy := true })

/-- L2_SHARE_WALK_DONE: every slice has walked the old share: the device's lines that do not lie at their new set have been dropped, dirty
ones after a write-back. -/
def execL2ShareWalkDone (vd : Nat) (s : State) : Host.Outcome State Fault Refusal :=
  let v := s.vd vd
  .next (if !v.l2Busy then s
    else
      let lines := s.cached.filter fun c => c.vd == vd && c.set != s.setOf vd c.addr
      let s := lines.foldl (fun s c =>
        let s := s.writeBackLine c.space c.addr
        if s.isDirty c.space c.addr then s else s.uncache c.space c.addr) s
      if lines.any fun c => s.isDirty c.space c.addr then s else s.setVd vd { s.vd vd with l2Busy := false })

/-- TOKEN_REFILL: the bucket gains 4 × RATE tokens a microsecond, up to BURST. -/
def execTokenRefill (vd us : Nat) (s : State) : Host.Outcome State Fault Refusal :=
  let v := s.vd vd
  .next (s.setVd vd { v with tokens := min (bitsOf v.rate.toNat 0 16) (v.tokens + 4 * bitsOf v.rate.toNat 16 16 * us) })

/-! ### Quiescence (R380) -/

/-- Quiesce a device: every cluster that holds groups of it saves or drains them. -/
def State.quiesceDevice (s : State) (vd : Nat) : State :=
  let v := s.vd vd
  let s := s.setVd vd { v with quiesce := true }
  let clusters := ((s.groups.filter fun g => g.vd == vd && g.phase.placed).map (·.cluster)).eraseDups
  (clusters.foldl (fun s c => s.preempt c vd none [] true) s).settleQuiesce vd

/-- The hypervisor asks for quiescence. -/
def State.askQuiesce (s : State) (vd : Nat) : State := (s.setVd vd { s.vd vd with asked := true }).quiesceDevice vd

/-- QUIESCE_REQUEST. -/
def execQuiesceRequest (vd : Nat) (s : State) : Host.Outcome State Fault Refusal := .next (s.askQuiesce vd)

/-- The device resumes, and is ready again where a launch of it is (R370); queues whose descriptor the driver has rewritten
with QSTATE 0 while it was quiesced run again (R159). -/
def State.resumeDevice (s : State) (vd : Nat) : State :=
  let v := s.vd vd
  let s := s.setVd vd { v with quiesce := false, quiesced := false }
  let s := if s.deviceReady vd then s.becomeReady vd else s
  (s.queues.filter fun x => x.id.vd == vd).foldl State.resumeQueue s

/-- A cause of a device's quiescence has ended: it resumes unless another stands (VDCTL.QUIESCE, mooring, a temperature hold;
R380, R433, R434). -/
def State.releaseDevice (s : State) (vd : Nat) : State :=
  let v := s.vd vd
  if !v.quiesce || v.asked || decide (v.moor ≠ .running) || s.trust.held.contains vd then s else s.resumeDevice vd

/-- The hypervisor asks for quiescence no longer. -/
def State.askNoQuiesce (s : State) (vd : Nat) : State := (s.setVd vd { s.vd vd with asked := false }).releaseDevice vd

/-- QUIESCE_RELEASE. -/
def execQuiesceRelease (vd : Nat) (s : State) : Host.Outcome State Fault Refusal := .next (s.askNoQuiesce vd)

/-! ### Creation and reset (R372, R422, R434) -/

/-- The quadrants that a device may occupy: its own, and the pool's if it is in the pool, of the clusters in service (R439). -/
def State.mayOccupy (s : State) (vd : Nat) (pool : Bool) : Nat :=
  (((List.range 216).filter fun i => decide ((s.die (dieOf i)).state ≠ .quarantined)).map fun i =>
    ((List.range 4).filter fun k => match ownerIn (s.cluster i).own k with | none => pool | some d => d == vd).length).foldl (· + ·) 0

/-- QEFF: the requested quantum, raised to the worst-case save time in whole microseconds. -/
def effectiveQuantum (quantum q : Nat) : Nat := max quantum ((8832 * ((q + 215) / 216) + 1199) / 1200)

/-- Regions that a device's range entries cover. -/
def VDev.regionsCovered (v : VDev) : Nat := ((List.range 4096).filter v.covers).length

/-- The creation of a device is refused. -/
def State.creationRefused (s : State) (vd : Nat) (p : VdParams) : Bool :=
  let v := s.vd vd
  decide (64 ≤ vd) || v.created || bitsOf p.sched0.toNat 16 16 == 0 || bitsOf p.sched0.toNat 8 8 != 0
    || bitsOf p.sched1.toNat 18 14 != 0 || bitsOf p.sched1.toNat 0 16 == 0
    || bitsOf p.save0.toNat 0 21 != 0 || bitsOf p.save1.toNat 16 16 != 0 || bitsOf p.save2.toNat 16 16 != 0
    || decide (8 * bitsOf p.save2.toNat 0 16 < 5 * s.mayOccupy vd p.pool)
    || p.cls.toNat == 3 || (p.cls.toNat == 2 && decide (117 < v.regionsCovered))

/-- VD_CREATE. -/
def execVdCreate (vd : Nat) (p : VdParams) (s : State) : Host.Outcome State Fault Refusal :=
  .next (if s.creationRefused vd p then s
    else
      let v := s.vd vd
      s.setVd vd { v with
        created := true, pool := p.pool, sched0 := p.sched0, sched1 := p.sched1
        qeff := BitVec.ofNat 32 (effectiveQuantum (bitsOf p.sched0.toNat 16 16) (s.mayOccupy vd p.pool))
        save := [p.save0, p.save1, p.save2], cls := p.cls.toNat, moor := .running })

/-- Remove a device's groups, without a save. -/
def State.dropGroups (s : State) (vd : Nat) : State :=
  let mine := s.groups.filter fun g => g.vd == vd
  let s := mine.foldl (fun s g => if g.phase.placed then s.keepSeqs g else s) s
  let bound (q : QueueId) : Bool := mine.any fun g => decide (g.queue = some q)
  ({ s with groups := s.groups.filter (fun g => g.vd != vd), queues := s.queues.filter fun x => !bound x.id
            side := s.side.filter fun e => e.2.1.vd != vd } : State).wakeParked

/-- End every launch of a device with a status (R358, R422). -/
def State.endLaunches (s : State) (vd status : Nat) : State :=
  let ids := (s.launches.filter fun l => l.vd == vd).map (·.id)
  let s := ids.foldl (fun s id => s.stopLaunch id status none) s
  let s := { s with launches := s.launches.map fun (l : Launch) => if l.vd = vd then { l with status := status, deciding := none } else l }
  ids.foldl State.settleLaunch (s.dropGroups vd)

/-- A device's channels leave self-refresh, and the Ferry begins to spread its regions back (R436). -/
def State.wakeChannels (s : State) (vd : Nat) : State :=
  let ns := (s.vd vd).regionsHeld s
  let out := ((ns.map fun n => (s.region n).spread).filter fun n => decide (56 ≤ n)).flatMap fun n => (s.spread n).moored
  let s := { s with sv := { s.sv with selfRefresh := s.sv.selfRefresh.filter fun c => !out.contains c } }
  ns.foldl State.spreadBack s

/-- Reset a device: one that is moored is woken. The accesses from outside that are held for it are dropped with its packets; the companion
processor gets an error response for its own (R422, R435; log 133). -/
def State.resetDevice (s : State) (vd : Nat) : State :=
  let s : State := { s with
    reqs := s.reqs.filter fun r => r.vd != vd
    queues := s.queues.map fun (x : Queue) => if x.id.vd = vd then { x with head := none, miss := none } else x }
  let s := (s.queues.filter fun (x : Queue) => x.id.vd == vd).foldl State.haltQueue s
  let s := (s.setVd vd { s.vd vd with resetDone := false, pageReqs := [], moor := .running, moorReq := false }).wakeChannels vd
  let dropped := s.outside.filter fun x => x.vd == vd
  let s : State := { s with
    outside := s.outside.filter fun x => x.vd != vd
    hostReply := if dropped.any fun x => x.what.companion then none else s.hostReply }
  let s := { s with launches := s.launches.map fun (l : Launch) => if l.vd = vd then { l with endMiss := none } else l }
  let s := s.endLaunches vd 4
  let v := s.vd vd
  let s := s.setVd vd (v.seals.foldl (fun (v : VDev) (e : Seal) => if e.live then v.sealRelease (e.index + e.gen * 1024) else v) v)
  (((List.range 216).foldl State.settlePreempts s).settleQuiesce vd).releaseDevice vd

/-- VD_RESET: a write of VDRESET; it is discarded while the last reset has not completed. -/
def execVdReset (vd : Nat) (value : Word) (s : State) : Host.Outcome State Fault Refusal :=
  .next (if !(s.vd vd).resetDone || bitsOf value.toNat 2 30 != 0 || !value.getLsbD 0 then s else s.resetDevice vd)

/-- VD_RESET_DONE: no dead packet remains. -/
def execVdResetDone (vd : Nat) (s : State) : Host.Outcome State Fault Refusal :=
  let v := s.vd vd
  .next (s.setVd vd { v with resetDone := true })

/-! ### Keys (R423, R424) -/

def State.keyResult (s : State) (r : Nat) : State := { s with trust := { s.trust with keyResult := r, keyBusy := r == 0 } }

/-- A write of KEYCMD is discarded: from a world that is not secure, with an MBZ bit, or while BUSY is 1. -/
def State.keyCmdDiscarded (s : State) (cmd : Word) (secure : Bool) : Bool := !secure || s.trust.keyBusy || bitsOf cmd.toNat 10 18 != 0 || bitsOf cmd.toNat 6 2 != 0

/-- KEY_INSTALL: KEYDATA becomes the key of the id. An OP that is reserved has RESULT 1. -/
def execKeyInstall (cmd : Word) (secure : Bool) (s : State) : Host.Outcome State Fault Refusal :=
  let id := bitsOf cmd.toNat 0 6
  .next (if s.keyCmdDiscarded cmd secure then s
    else
      match bitsOf cmd.toNat 8 2 with
      | 1 => { s with trust := { s.trust with
          keys := (id, s.trust.keyGen, s.trust.keydata) :: s.trust.keys.filter fun k => k.1 != id
          keyGen := s.trust.keyGen + 1, keyResult := 0, keyBusy := true } }
      | 2 => s
      | _ => s.keyResult 1)

/-- KEY_DESTROY: refused while a range entry holds the key id; else the lines held under it are discarded, the named units
become clear-pending and the key is erased. -/
def execKeyDestroy (cmd : Word) (secure : Bool) (s : State) : Host.Outcome State Fault Refusal :=
  let id := bitsOf cmd.toNat 0 6
  let first := (s.trust.keyargs.getD 0 0#32).toNat
  let count := (s.trust.keyargs.getD 1 0#32).toNat
  .next (if s.keyCmdDiscarded cmd secure || bitsOf cmd.toNat 8 2 != 2 then s
    else if s.vds.any fun v => v.ranges.any fun e => rangeLen e != 0 && rangeKeyid e == id then s.keyResult 2
    else if 4096 * 128 < first + count then s.keyResult 1
    else
      let s : State := { s with
        dirty := s.dirty.filter fun d => decide (d.space ≠ .device) || d.keyid != id
        cached := s.cached.filter fun c => decide (c.space ≠ .device) || c.keyid != id
        roc := s.roc.filter fun r => decide (r.place.space ≠ .device) || r.place.keyid != id }
      let s := s.clearUnits first count
      ({ s with trust := { s.trust with keys := s.trust.keys.filter fun k => k.1 != id } } : State).keyResult 0)

end Sys2Proof.Machine
end

