-- ==== Sys2Proof/Machine/Trust.lean ====
section
/-!
DEFINITION. Trust, power, mooring and start: die states and losses, link keys, the world-violation log, the throttle, moored
devices, cold and warm starts (22 R404, R405; 24 R426 to R439).
-/
namespace Sys2Proof.Machine

/-! ### Dies (R16, R426) -/

/-- Dies 0 to 2 are compute dies, die 3 the I/O die, and die 4 + k the base die of stack k. -/
def dieKind (n : Nat) : DieKind := if n < 3 then .compute else if n = 3 then .io else .base

/-- What a die holds in fuses, and the three measurements that it reports. -/
def fusesOf (n : Nat) : Fuses := { key := Config.dieKey n, chain := Config.dieChain n, kind := dieKind n, number := n }
def measurementsOf (n : Nat) : List (BitVec 256) := [Config.measurement n 1, Config.measurement n 2, Config.measurement n 3]

/-! ### Links (R17, R430, R431) -/

/-- The ends of a link: 0 to 2 join the compute dies, 3 to 5 a compute die and the I/O die, and 6 + 2k and 7 + 2k join stack
k's base die to its primary and secondary compute die (the numbers are the model's, log 60). -/
def linkEnds (n : Nat) : Nat × Nat :=
  match n with
  | 0 => (0, 1)
  | 1 => (0, 2)
  | 2 => (1, 2)
  | 3 => (0, 3)
  | 4 => (1, 3)
  | 5 => (2, 3)
  | n =>
    let k := (n - 6) / 2
    (if n % 2 = 0 then k / 4 else (k / 4 + 1) % 3, 4 + k)

/-- Direction `dir` of a link in the list of both directions of all 30. -/
def State.linkDir (s : State) (link dir : Nat) : LinkDir := (s.trust.links[2 * link + dir % 2]?).getD LinkDir.reset
def State.setLinkDir (s : State) (link dir : Nat) (l : LinkDir) : State :=
  { s with trust := { s.trust with links := s.trust.links.set (2 * link + dir % 2) l } }

/-- Key the links of a die to the dies that are TRUSTED, or unkey all of them. -/
def State.keyLinks (s : State) (die : Nat) (on : Bool) : State :=
  let ls := s.trust.links.mapIdx fun i (l : LinkDir) =>
    let e := linkEnds (i / 2)
    if e.1 = die ∨ e.2 = die then
      let other := if e.1 = die then e.2 else e.1
      if on then (if (s.die other).state = .trusted then { LinkDir.reset with keyed := true } else l) else LinkDir.reset
    else l
  { s with trust := { s.trust with links := ls } }

/-! ### Homes (R17, R404) -/

/-- The other home of a stack. -/
def otherHome (stack die : Nat) : Nat := if die = stack / 4 then (stack / 4 + 1) % 3 else stack / 4

/-- Home maps under which every stack that a die homes is served by its other home. A stack whose two homes are both away is lost, and
keeps such a home: its lines are homed at the slice of a die that is not TRUSTED until the Ferry has moved them (R404; log 136). -/
def State.mapsWithout (s : State) (die : Nat) : List HomeMap :=
  let nums := (0 :: s.sv.hmaps.map (·.num)).eraseDups
  nums.map fun n => { num := n, moved := ((List.range 12).map fun k =>
    let h := s.homeOf n k
    (k, if h = die then otherHome k die else h)).filter fun p => p.2 != p.1 / 4 }

/-- The slice that serves a channel of a departing slice from its other home. -/
def otherSlice (slice : Nat) (stack die : Nat) : Nat := 128 * otherHome stack die + slice % 128

/-- The slices of a die hand their floors on: each slice of the other two rises to the highest that may come to it (R138,
R403). -/
def State.raiseFrom (s : State) (die : Nat) : State :=
  (List.range 128).foldl (fun s c =>
    ((List.range 3).filter (· != die)).foldl (fun s d => s.raiseFloor (128 * d + c) (128 * die + c)) s) s

/-- The stacks of a home map whose home is a die, and whose other home is not TRUSTED either: they are lost (R404). -/
def State.bothLost (s : State) (die : Nat) : List Nat :=
  (List.range 12).filter fun k => s.homeOf 0 k == die && decide ((s.die (otherHome k die)).state ≠ .trusted)

/-- The furthest of some tags that are not behind one, or that one itself (R138). -/
def furthestTag (own : Nat) (tags : List Nat) : Nat :=
  tags.foldl (fun m t => if sub32 t own < 2 ^ 31 ∧ sub32 m own < sub32 t own then t else m) own

/-- A compute die joins or leaves the TRUSTED ones, so tier-2 lines whose hash gives another slice are homed there: every slice's floor
rises to the furthest of those that are not behind its own, and such a line takes its new slice's floor as its latest tag (R132, R138). -/
def State.rehomeTier2 (old s : State) : State :=
  if old.trustedDies = s.trustedDies then s
  else
    let tags := (s.sv.floors.filter fun f => decide (f.1 < 384)).map (·.2)
    let floor (n : Nat) : Nat := furthestTag (assocGet s.sv.floors n 0) tags
    let moves (addr : Nat) : Bool := old.sliceOf .tier2 addr != s.sliceOf .tier2 addr
    { s with
      dirty := s.dirty.map fun (d : Dirty) => if d.space = .tier2 then { d with slice := s.sliceOf .tier2 d.addr } else d
      cached := s.cached.filterMap fun c =>
        if c.space ≠ .tier2 ∨ !moves c.addr then some c else if s.isDirty .tier2 c.addr then some { c with tag := floor (s.sliceOf .tier2 c.addr) } else none
      sv := { s.sv with floors := if tags.isEmpty then s.sv.floors else
        (List.range 384).map (fun n => (n, floor n)) ++ s.sv.floors.filter fun f => decide (384 ≤ f.1) } }

/-- A line that no home is left for is written back, and its deltas are applied, before its die is reset. -/
def State.flushLine (s : State) (addr : Nat) : State :=
  let n := s.sv.deltas.length
  let s := s.writeBackLine .device addr
  { s with sv := { s.sv with deltas := s.sv.deltas.take n } }

/-- Re-home every stack of a die: with its dirty lines handed over (R404, planned), each of which takes its new slice's
floor as its tag. What was being handed to or from the die arrives first, and what has no other home is written back. -/
def State.rehomePlanned (s : State) (die : Nat) : State :=
  let s := (s.sv.handoffs.filter fun h => h.2.1 / 128 == die || h.2.2 / 128 == die).foldl State.arriveHome s
  let stack (d : Dirty) : Nat := s.channel d.addr (lineIn d.addr) / 32
  let mine (d : Dirty) : Bool := decide (d.space = .device) && d.slice / 128 == die
  let homeless := s.dirty.filter fun d => mine d && decide ((s.die (otherHome (stack d) die)).state ≠ .trusted)
  let s := homeless.foldl (fun s d => s.flushLine d.addr) s
  let s := s.raiseFrom die
  let maps := s.mapsWithout die
  let dest (d : Dirty) : Nat := otherSlice d.slice (s.channel d.addr (lineIn d.addr) / 32) die
  let moved := s.dirty.filter mine
  let s := { s with
    dirty := s.dirty.map fun (d : Dirty) => if mine d then { d with slice := dest d } else d
    cached := s.cached.filter fun c => decide (c.space ≠ .device) || s.sliceOf c.space c.addr / 128 != die || s.isDirty c.space c.addr
    sv := { s.sv with hmaps := maps } }
  moved.foldl (fun s d => s.setTag d.space d.addr (assocGet s.sv.floors (s.sliceOf d.space d.addr) 0)) s

/-! ### Loss of a die (R404, R405, R429) -/

/-- The launches that had a group resident on a die end with STATUS 5; their other groups stop. -/
def State.endOnDie (s : State) (die : Nat) : State :=
  let hit (g : Group) : Bool := g.phase.placed && dieOf g.cluster == die
  let ids := ((s.groups.filter hit).map (·.launch)).eraseDups
  let lost := s.groups.filter hit
  let s := ids.foldl (fun s id => s.stopLaunch id 5 none) s
  let s := lost.foldl State.keepSeqs s
  let bound (q : QueueId) : Bool := lost.any fun g => decide (g.queue = some q)
  let s : State := { s with
    groups := s.groups.filter fun g => !hit g
    reqs := s.reqs.filter fun r => !(lost.any fun g => g.gid == r.gid)
    vds := s.vds.map fun (v : VDev) => if v.pageReqs.isEmpty then v else { v with pageReqs := v.pageReqs.map fun (r : PageReq) =>
      { r with waiters := r.waiters.filter fun w => match w with
          | .line q _ => !(lost.any fun g => g.gid == q.gid)
          | .frag a => !(lost.any fun g => g.gid == a.gid)
          | .matrix g => !(lost.any fun x => x.gid == g)
          | _ => true } }
    queues := s.queues.filter fun x => !bound x.id
    side := s.side.filter fun e => !bound e.2.1 }
  ids.foldl State.settleAll s

/-- The engines' and launch unit's own queues on a die halt. -/
def State.haltOnDie (s : State) (die : Nat) : State :=
  let on (q : QueueId) : Bool := match q.kind with
    | .engine => decide (q.unit < 216) && dieOf q.unit == die
    | .launchUnit => q.unit == die
    | .peerPort => false
  let s := (s.queues.filter fun (x : Queue) => on x.id).foldl State.haltQueue s
  { s with queues := s.queues.map fun (x : Queue) => if on x.id then { x with head := none, miss := none } else x
           side := s.side.filter fun e => !on e.2.1 }

/-- What a lost compute die's slices held: dirty granules are poisoned, its deltas are abandoned and their stripes are
check-stale; every stack it homed is served by its other home (R404, R405). -/
def State.loseSlices (s : State) (die : Nat) : State :=
  let mine := s.dirty.filter fun d => d.slice / 128 == die
  -- a granule's bit stands until the deltas of its write-backs are acknowledged
  let sent := (s.sv.deltas.filter fun d => d.slice / 128 == die).map fun d => d.stripe * 2048 + 128 * d.line
  let lines := ((((mine.filter fun d => decide (d.space = .device)).map (·.addr)) ++ sent).flatMap s.granule).eraseDups
  let gone := s.sv.deltas.filter fun d => d.slice / 128 == die || d.waits.any fun k => s.sliceUnder
    ((s.region (regionOf (d.stripe * 2048))).hmapOf (stripeIn (d.stripe * 2048))) (s.channel (d.stripe * 2048) k) / 128 == die
  let stale := (gone.map (·.stripe) ++ lines.map stripeOf ++ s.sv.stale).eraseDups
  let s := lines.foldl (fun s a => s.setPoison .device a (deviceSyndrome 2 0 (s.channel a (lineIn a)))) s
  let s := (mine.filter fun d => decide (d.space = .tier2)).foldl (fun s d => s.setPoison .tier2 d.addr synTier2) s
  let s := s.raiseFrom die
  { s with
    dirty := s.dirty.filter fun d => d.slice / 128 != die
    cached := s.cached.filter fun c => s.sliceOf c.space c.addr / 128 != die
    sv := { s.sv with
      deltas := s.sv.deltas.filter fun d => !gone.contains d
      stale := stale
      handoffs := s.sv.handoffs.filter fun h => h.2.1 / 128 != die && h.2.2 / 128 != die
      hmaps := s.mapsWithout die } }

/-- Count a single-die reset. -/
def Die.countReset (d : Die) : Die := { d with resets := min (d.resets + 1) 65535 }

/-- A base die that is reset, lost or quarantined is a lost stack (R26, R429). -/
def State.loseStackOf (s : State) (die : Nat) : State :=
  if dieKind die = .base ∧ die < 16 then s.failUnit (.stack (die - 4)) else s

/-- A compute die takes its clusters and slices with it; stacks with no home left are lost. -/
def State.loseCompute (s : State) (die : Nat) : State :=
  if dieKind die ≠ .compute then s
  else
    let lost := s.bothLost die
    -- what saved groups left in place there counts as written to their images (log 96)
    let s := (((s.endOnDie die).haltOnDie die).loseSlices die).evictAll fun g => dieOf g.cluster == die
    let s := { s with
      roc := s.roc.filter fun r => dieOf r.cluster != die
      clusters := s.clusters.mapIdx fun i (c : Cluster) => if dieOf i = die then { c with grants := [], preempts := [] } else c }
    lost.foldl (fun s k => s.failUnit (.stack k)) s

/-- A TRUSTED die is lost without warning. -/
def State.loseDie (s : State) (die : Nat) : State :=
  if (s.die die).state ≠ .trusted ∨ die = 3 ∨ 16 ≤ die then s
  else
    let t := s.setDie die { (s.die die).countReset with state := .resetting, planned := false }
    State.rehomeTier2 s (((t.keyLinks die false).loseCompute die).loseStackOf die)

/-- DIE_SILENCE. -/
def execDieSilence (die : Nat) (s : State) : Host.Outcome State Fault Refusal := .next (s.loseDie die)

/-! ### Attestation (R427, R428) -/

/-- A failed attempt: the first is retried; the second quarantines the die. -/
def State.failAttempt (s : State) (die : Nat) : State :=
  let d := s.die die
  if d.fails then
    let s := s.setDie die { d with state := .quarantined }
    let s := { s with trust := { s.trust with qmask := s.trust.qmask ||| 2 ^ die } }
    s.loseStackOf die
  else s.setDie die { d with state := .unattested, fails := true }

/-- A compute die is back: the regions move home to its slices (R402, R429); those that move already do so when they have come to
their end. -/
def State.homeBack (s : State) (die : Nat) : State :=
  if (0 :: s.sv.hmaps.map (·.num)).all fun m => (List.range 12).all fun k => decide (k / 4 ≠ die) || s.homeOf m k == die then s
  else (List.range 4096).foldl State.goHome s

/-- The servers of a die run again: those whose page request was answered in between wait no more (R26, R392). -/
def State.serversBack (s : State) (die : Nat) : State :=
  (s.queues.filter fun x => x.qstate == 4 && x.miss.isNone && serverDie x.id == die).foldl (fun s x => s.setQstate x.id 0) s

/-- An attempt that passes: the die's links to TRUSTED dies are keyed, and it is TRUSTED. -/
def State.passAttempt (s : State) (die : Nat) : State :=
  let d := s.die die
  let t := ((s.setDie die { d with state := .trusted, fails := false, planned := false }).keyLinks die true).serversBack die
  if dieKind die = .compute then State.rehomeTier2 s (t.homeBack die) else t

/-- ATTESTATION: the root opens a die's session, or the attempt under way comes to its outcome. -/
def execAttestation (die : Nat) (o : AttestOutcome) (s : State) : Host.Outcome State Fault Refusal :=
  let d := s.die die
  .next (if die = 3 ∨ 16 ≤ die then s
    else
      match d.state, o with
      | .unattested, _ => s.setDie die { d with state := .attesting }
      | .attesting, .pass => s.passAttempt die
      | .attesting, .fail => s.failAttempt die
      | _, _ => s)

/-- ATTESTATION_TIMEOUT: silence fails the attempt. -/
def execAttestationTimeout (die : Nat) (s : State) : Host.Outcome State Fault Refusal :=
  .next (if die = 3 ∨ (s.die die).state ≠ .attesting then s else s.failAttempt die)

/-! ### Planned resets (R428, R429) -/

/-- The groups of a compute die that are still on it. -/
def State.onDie (s : State) (die : Nat) : List Group := s.groups.filter fun g => g.phase.placed && dieOf g.cluster == die

/-- Step 2 and 3 of a planned reset, once the die's groups are saved. Its servers stop until it is TRUSTED again, with what they have
taken (R26). -/
def State.enterReset (s : State) (die : Nat) : State :=
  let lost := s.bothLost die
  let t := if dieKind die = .compute then (s.rehomePlanned die).evictAll fun g => dieOf g.cluster == die else s
  let t := (t.setDie die { (t.die die).countReset with state := .resetting, planned := false }).keyLinks die false
  let t := lost.foldl (fun s k => if die < 3 then s.failUnit (.stack k) else s) t
  State.rehomeTier2 s (t.loseStackOf die)

/-- DIE_RESET: a write of DIERST. The groups of a compute die are saved first. -/
def execDieReset (value : Word) (s : State) : Host.Outcome State Fault Refusal :=
  let die := value.toNat
  .next (if 16 ≤ die ∨ die = 3 ∨ (s.die die).state ≠ .trusted then s
    else if dieKind die = .base then s.enterReset die
    else
      let s := s.setDie die { s.die die with planned := true }
      let s := (s.onDie die).foldl (fun s g => s.beginSave g.gid) s
      if (s.onDie die).isEmpty then s.enterReset die else s)

/-- DIE_RESET_COMPLETE: a planned reset goes on once the die's groups are saved; and a die whose reset is complete is
UNATTESTED. -/
def execDieResetComplete (die : Nat) (s : State) : Host.Outcome State Fault Refusal :=
  let d := s.die die
  .next (if d.planned && decide (d.state = .trusted) then (if (s.onDie die).isEmpty then s.enterReset die else s)
    else if d.state = .resetting then s.setDie die { d with state := .unattested }
    else s)

/-! ### Link keys (R431) -/

/-- A direction rolls its key over: from here on its sender seals under the new key, and both KIX are accepted. -/
def LinkDir.rollOver (l : LinkDir) : LinkDir :=
  { l with kix := !l.kix, oldKey := true, flits := 0, unacked := 0, oldUnacked := l.unacked }

/-- KEY_ROLLOVER: the Pilot commands it. -/
def execKeyRollover (link dir : Nat) (s : State) : Host.Outcome State Fault Refusal :=
  let l := s.linkDir link dir
  .next (if l.keyed && !l.oldKey then s.setLinkDir link dir l.rollOver else s)

/-- OLD_KEY_RETIRE: once every flit sealed under the old key has been acknowledged, both ends accept the new KIX only. -/
def execOldKeyRetire (link dir : Nat) (s : State) : Host.Outcome State Fault Refusal :=
  let l := s.linkDir link dir
  .next (if l.oldKey && l.oldUnacked == 0 then s.setLinkDir link dir { l with oldKey := false } else s)

/-- n flits are sealed and sent: no key seals more than 2^32, after which the direction rolls over. -/
def State.sendFlits (s : State) (link dir n : Nat) : State :=
  let l := s.linkDir link dir
  if !l.keyed then s
  else
    let k := min n (2 ^ 32 - l.flits)
    let l := { l with flits := l.flits + k, unacked := l.unacked + k }
    s.setLinkDir link dir (if 2 ^ 32 ≤ l.flits ∧ !l.oldKey then l.rollOver else l)

/-- n flits are acknowledged, those of the old key first. -/
def State.ackFlits (s : State) (link dir n : Nat) : State :=
  let l := s.linkDir link dir
  s.setLinkDir link dir { l with oldUnacked := l.oldUnacked - n, unacked := l.unacked - (n - l.oldUnacked) }

/-- A direction with fresh keys, under which the flits that were not acknowledged are sent again. -/
def LinkDir.rekeyed (l : LinkDir) : LinkDir :=
  { LinkDir.reset with keyed := true, flits := l.unacked + l.oldUnacked, unacked := l.unacked + l.oldUnacked }

/-- FLIT_AUTH_FAILURE: the flit is dropped and resent; the eighth within 1 ms rekeys the link, and a choice of 1 is a key
exchange that fails, which loses the responder (the compute die, on a link to the I/O die; log 61). -/
def execFlitAuthFailure (link dir : Nat) (s : State) : Host.Outcome State Fault Refusal :=
  let l := s.linkDir link dir
  let recent := s.clock :: l.fails.filter fun t => decide (s.clock < t + 1200000)
  .next (if !l.keyed then s
    else if recent.length < 8 then s.setLinkDir link dir { l with fails := recent }
    else
      let s := (s.setLinkDir link 0 (s.linkDir link 0).rekeyed).setLinkDir link 1 (s.linkDir link 1).rekeyed
      let e := linkEnds link
      let responder := if e.2 = 3 then e.1 else e.2
      (if s.oracle.headD 0 = 1 then (s.setDie responder { s.die responder with fails := true }).loseDie responder else s).popChoice)

/-! ### The world-violation log (R432) -/

/-- A write of WLOGSEL: it names the entry to read, and CLEAR empties the log. -/
def State.writeWlogsel (s : State) (value : Word) (secure : Bool) : State :=
  if !secure || bitsOf value.toNat 6 25 != 0 then s
  else { s with trust := { s.trust with
    wlog := if value.getLsbD 31 then [] else s.trust.wlog
    wlogIndex := bitsOf value.toNat 0 6 } }

/-- WLOG_CLEAR: a write of WLOGSEL with CLEAR. -/
def execWlogClear (value : Word) (secure : Bool) (s : State) : Host.Outcome State Fault Refusal :=
  .next (s.writeWlogsel value secure)

/-- WLOGSTAT: LOST and COUNT. -/
def State.wlogStat (s : State) : Word := BitVec.ofNat 32 (s.trust.wlogLost * 65536 + s.trust.wlog.length)

/-- A read of WLOGSTAT: LOST clears in it (R9, R432). -/
def State.takeWlogstat (s : State) (secure : Bool) : State :=
  if secure then { s with readData := s.wlogStat, trust := { s.trust with wlogLost := 0 } } else { s with readData := 0#32 }

/-- WLOGSTAT_READ: a read from the secure world returns LOST and COUNT, and clears LOST in the same access (R9); one from the
other world returns zero (log 100). -/
def execWlogstatRead (secure : Bool) (s : State) : Host.Outcome State Fault Refusal := .next (s.takeWlogstat secure)

/-- What WLOGDAT n reads. -/
def State.wlogData (s : State) (n : Nat) : Word :=
  match s.trust.wlog[s.trust.wlogIndex]? with
  | none => 0#32
  | some e =>
    match n with
    | 0 => BitVec.ofNat 32 e.hpa
    | 1 => BitVec.ofNat 32 (e.hpa / 2 ^ 32 % 65536 + e.src % 65536 * 65536)
    | _ => BitVec.ofNat 32 (e.dev % 64 + (if e.engine then 128 else 0) + e.kind % 4 * 256)

/-! ### Power (R433) -/

/-- POWER_SAMPLE. -/
def execPowerSample (watts : Nat) (s : State) : Host.Outcome State Fault Refusal :=
  let t := s.trust
  let level := if t.pwrlim < watts then min 7 (t.level + 1) else if watts * 100 < t.pwrlim * 95 then t.level - 1 else t.level
  .next { s with trust := { t with pwrnow := min watts 65535, level := level } }

/-- THERMAL_EVENT: above 115 °C every device is quiesced and the clusters are held, until every die is below 95 °C; the
devices then resume that nothing else holds quiesced. -/
def execThermalEvent (die celsius : Nat) (s : State) : Host.Outcome State Fault Refusal :=
  let s := s.setDie die { s.die die with temp := celsius }
  .next (if 115 < celsius ∧ !s.trust.hold then
      let ds := (List.range 64).filter fun d => (s.vd d).created
      let s := { s with trust := { s.trust with hold := true, held := ds } }
      ds.foldl State.quiesceDevice s
    else if s.trust.hold && s.trust.dies.all fun d => decide (d.temp < 95) then
      let ds := s.trust.held
      ds.foldl State.releaseDevice { s with trust := { s.trust with hold := false, held := [] } }
    else s)

/-- THRSTAT: HOLD, HOT and LEVEL. -/
def State.thrStat (s : State) : Word :=
  BitVec.ofNat 32 (s.trust.level + (if s.trust.dies.any fun d => decide (105 < d.temp) then 8 else 0) + (if s.trust.hold then 16 else 0))

/-! ### Moored devices (R434 to R436) -/

/-- MOOR: a write of VDMOOR with MOOR set; it is discarded where it sets an MBZ bit or the reserved CLASS, and unless the device is
RUNNING. -/
def execMoor (vd : Nat) (value : Word) (s : State) : Host.Outcome State Fault Refusal :=
  let v := s.vd vd
  .next (if bitsOf value.toNat 5 27 ≠ 0 ∨ value.toNat % 4 = 3 ∨ !value.getLsbD 4 ∨ !v.created ∨ v.moor ≠ .running then s
    else (s.setVd vd { v with moor := .mooring, moorReq := true }).quiesceDevice vd)

/-- A W2 device's regions are on a moored spread, all of them. -/
def State.gathered (s : State) (v : VDev) : Bool := (v.regionsHeld s).all fun n => decide (56 ≤ (s.region n).spread)

/-- A moored spread with room for n more regions: one in use, or a new one (R436). -/
def State.mooredRoom (s : State) (n : Nat) : Option Spread :=
  (List.range 8).findSome? fun k =>
    let x := s.spread (56 + k)
    let used := s.mooredOn x.num
    if 117 < used + n then none
    else if 0 < used then (if x.sharable then some x else none)
    else (s.mooredChannels x.num).map fun cs => { num := x.num, seed := none, banks := [], excludes := [], lost := [], moored := cs }

/-- Gather a device's regions: they begin to move to a moored spread with room; false where none has, or the spare is short, which
it is while it is not whole (R436 gives no threshold, log 101). -/
def State.gather (s : State) (vd : Nat) : State × Bool :=
  let ns := (s.vd vd).regionsHeld s
  match if s.sv.spare < fullSpare then none else s.mooredRoom ns.length with
  | none => (s, false)
  | some x =>
    let s := { s with sv := { s.sv with spreads := x :: s.sv.spreads.filter fun y => y.num != x.num } }
    (ns.foldl (fun s n =>
      let r := s.region n
      s.setRegion { r with state := .migrating, nspread := x.num, nhmap := r.hmap, cursor := 0, during := [] }) s, true)

/-- The device is MOORED: what its groups left in place is written to their images at once, and under W1 and W2 its pool grant is
released. -/
def State.setMoored (s : State) (vd : Nat) : State :=
  let v := s.vd vd
  let s := (s.setVd vd { v with moor := .moored, moorReq := false }).evictAll fun g => g.vd == vd
  if v.cls = 0 then s
  else { s with clusters := s.clusters.map fun (c : Cluster) => { c with grants := c.grants.filter (·.vd != vd) } }

/-- MOOR_COMPLETE: the groups are saved. A W2 device's regions are gathered first, once no move of them is under way; without
room it moors as W1. -/
def execMoorComplete (vd : Nat) (s : State) : Host.Outcome State Fault Refusal :=
  let v := s.vd vd
  .next (if v.moor ≠ .mooring ∨ !v.quiesced then s
    else if v.cls = 2 then
      if (v.regionsHeld s).any fun n => decide ((s.region n).state = .migrating) then s
      else if s.gathered v then (s.setMoored vd).restChannels
      else
        let q := s.gather vd
        if q.2 then q.1 else s.setMoored vd
    else s.setMoored vd)

/-- WAKE: a write of 1 to WAKE. -/
def execWake (vd : Nat) (value : Word) (s : State) : Host.Outcome State Fault Refusal :=
  .next (if value = 1#32 then s.wakeDevice vd else s)

/-- WAKE_COMPLETE: the device is RUNNING and its servers consume again; its regions are out of self-refresh where they
are, and the Ferry spreads them back from there (R436). -/
def execWakeComplete (vd : Nat) (s : State) : Host.Outcome State Fault Refusal :=
  let v := s.vd vd
  .next (if v.moor ≠ .waking then s
    else
      ((s.setVd vd { v with moor := .running }).wakeChannels vd).releaseDevice vd)

/-- SELF_REFRESH_EXIT: a channel leaves self-refresh to serve an access. -/
def execSelfRefreshExit (channel : Nat) (s : State) : Host.Outcome State Fault Refusal :=
  .next { s with sv := { s.sv with selfRefresh := s.sv.selfRefresh.filter (· != channel), called := s.sv.called.filter (· != channel) } }

/-! ### Starts (R437 to R439) -/

/-- Regions that a package with n stacks in service holds, of the nine that a stripe takes at least (R397, R401); how many data regions a start with 11 stacks keeps, and what it
leaves of the spare, the spec does not say (log 103). -/
def usableRegions (n : Nat) : Nat := if n = 12 then 2503 else n * 2048 / 9

/-- The package as a start leaves it: everything at its Reset value, memory clear, no keys, every die but the failing ones
TRUSTED, the interleave table built over the trusted stacks. DIESTAT.RESETS starts again with every start, warm ones too (log 104).
What lies outside the package, and the model's own fields, stand. -/
def State.started (s : State) (failing : List Nat) (cold : Bool) : State :=
  let r := State.reset
  -- a QUARANTINED die waits for a cold start (R428)
  let failing := if cold then failing else failing ++ (List.range 16).filter fun n => decide ((s.die n).state = .quarantined) && !failing.contains n
  let dies := (List.range 16).map fun n =>
    if failing.contains n then { Die.reset with state := .quarantined, fails := true } else { Die.reset with state := .trusted }
  let ok (n : Nat) : Bool := !failing.contains n
  let links := (List.range 60).map fun i =>
    let e := linkEnds (i / 2)
    if ok e.1 && ok e.2 then { LinkDir.reset with keyed := true } else LinkDir.reset
  let moved := ((List.range 12).filter fun k => failing.contains (k / 4)).map fun k => (k, (k / 4 + 1) % 3)
  let gone := (List.range 12).filter fun k => failing.contains (4 + k) || (failing.contains (k / 4) && failing.contains ((k / 4 + 1) % 3))
  let out := gone.map MemUnit.stack
  let sv := { r.sv with
    usable := if 9 ≤ 12 - gone.length then usableRegions (12 - gone.length) else 0, retired := out
    spreads := if out.isEmpty then [] else [{ num := 0, seed := none, banks := [], excludes := out, lost := [], moored := [] }]
    hmaps := if moved.isEmpty then [] else [{ num := 0, moved := moved }]
    adv4 := [false, !out.isEmpty, false]
    spare := if out.isEmpty then fullSpare else 0 }
  { r with
    cur := s.cur, agenda := s.agenda, oracle := s.oracle, fresh := s.fresh, turns := s.turns, clock := s.clock
    companion := s.companion, host := s.host, sv := sv
    trust := { r.trust with
      dies := dies, links := links, phase := .running, cold := cold
      coldNext := if cold then false else s.trust.coldNext
      qmask := failing.foldl (fun m n => m ||| 2 ^ n) 0 } }

/-- The package as a start that does not complete leaves it: a die that failed both attempts is QUARANTINED, and at a warm start one that
was so stays so, and die 3 stays TRUSTED (R428). -/
def State.notStarted (s : State) (failing : List Nat) (warm : Bool) : State :=
  let r := State.reset
  let dies := (List.range 16).map fun n =>
    let d := s.die n
    if n ≠ 3 ∧ failing.contains n then { Die.reset with state := .quarantined, fails := true }
    else if warm && (decide (d.state = .quarantined) || (decide (n = 3) && decide (d.state = .trusted))) then { Die.reset with state := d.state, fails := d.fails }
    else Die.reset
  { r with
    cur := s.cur, agenda := s.agenda, oracle := s.oracle, fresh := s.fresh, turns := s.turns, clock := s.clock
    companion := s.companion, host := s.host
    trust := { r.trust with
      dies := dies, phase := .failed, cold := !warm, coldNext := s.trust.coldNext && warm
      qmask := (failing.filter fun n => n != 3 && decide (n < 16)).foldl (fun m n => m ||| 2 ^ n) (if warm then s.trust.qmask else 0)
      warmFails := if warm then s.trust.warmFails + 1 else 0 } }

/-- COLD_START: the dies that fail both attempts are named; with die 3 among them the package does not start. -/
def execColdStart (failing : List Nat) (s : State) : Host.Outcome State Fault Refusal :=
  .next (if failing.contains 3 then s.notStarted [] false else s.started (failing.filter (· < 16)) true)

/-- WARM_START: cold after three that did not complete, or with COLDNEXT. -/
def execWarmStart (failing : List Nat) (completes : Bool) (s : State) : Host.Outcome State Fault Refusal :=
  let cold := s.trust.coldNext || decide (3 ≤ s.trust.warmFails)
  .next (if failing.contains 3 then s.notStarted [] (!cold)
    else if !completes && !cold then s.notStarted failing true
    else s.started (failing.filter (· < 16)) cold)

/-- STARTSTAT. -/
def State.startStat (s : State) : Word :=
  BitVec.ofNat 32 ((if s.trust.phase = .running then 1 else 0) + (if s.trust.qmask ≠ 0 then 2 else 0) + (if s.trust.cold then 4 else 0)
    + (if s.trust.coldNext then 8 else 0) + s.trust.qmask % 65536 * 16 + s.trust.warmFails % 16 * 2 ^ 20)

/-- DIESTAT of a die. -/
def Die.stat (d : Die) : Word :=
  let st := match d.state with | .unattested => 0 | .attesting => 1 | .trusted => 2 | .quarantined => 3 | .resetting => 4
  BitVec.ofNat 32 (st + (if d.fails then 8 else 0) + d.resets * 65536)

end Sys2Proof.Machine
end

