-- ==== Sys2Proof/Machine/HostEvents.lean ====
section
/-!
DEFINITION. The outside world: accesses of the companion processor, appends of peer packages, and writes of the registers
that have no row of their own (00 R11; 07 R160; 25 R441 to R446).
-/
namespace Sys2Proof.Machine

/-! ### The companion processor (R441, R442) -/

/-- Companion memory: the slice's copy of each line is written back, and for a write dropped, before the access is
performed in companion memory; a dropped line has no tag. -/
def State.snoop (s : State) (write : Bool) (line : Nat) : State :=
  let s := s.writeBackLine .tier2 line
  if write then s.uncache .tier2 line else s

/-- A write of the driver over QSTATE of a halted queue whose device is quiesced rewrites its descriptor (R159). Where the server's own
translation of the descriptor misses or faults, a write at QSTATE's offset in its 64 KiB page may be that write: the server looks at the
descriptor at its next step (log 134). -/
def State.noteRewrite (s : State) (sp : Space) (addr n : Nat) : State :=
  let covers (x : Queue) : Bool :=
    let va := x.id.desc + 20
    match s.place x.id.vd va .read with
    | .ok p =>
      let p := s.served x.id.vd p false
      decide (p.space = sp) && decide (addr ≤ p.addr + va % 128) && decide (p.addr + va % 128 < addr + n)
    | .error _ => decide ((va + 65536 - addr % 65536) % 65536 < n)
  { s with queues := s.queues.map fun x => if x.halted && (s.vd x.id.vd).quiesced && covers x then { x with rewritten := true } else x }

/-- What an access reads at least, and whether it may write. -/
def accessLength : HostAccess → Nat
  | .read n => n
  | .write data => data.length
  | .swap old _ => old.length
def accessWrites : HostAccess → Bool
  | .read _ => false
  | _ => true

/-- What an access writes where it finds some bytes. -/
def accessStores (a : HostAccess) (found : List Byte) : Option (List Byte) :=
  match a with
  | .read _ => none
  | .write data => some data
  | .swap old new => if found = old then some (new.take old.length) else none

/-- The companion processor is answered. -/
def State.answer (s : State) (r : Option (List Byte)) : State := { s with hostReply := r }

/-- An access to companion memory by its own processor; a write of a whole line ends its poison (R133). -/
def State.companionTier2 (s : State) (addr : Nat) (a : HostAccess) : State :=
  let found := s.companion.read addr (accessLength a)
  let out := accessStores a found
  let s := ((linePieces addr (accessLength a)).map fun q => q.1 / 128 * 128).foldl (fun s l => s.snoop out.isSome l) s
  let s := match out with
    | none => s
    | some data =>
      let s := (linePieces addr data.length).foldl (fun (s : State) (q : Nat × Nat) => if q.2 = 128 then s.clearPoison .tier2 q.1 else s) s
      let s := (linePieces addr data.length).foldl (fun (s : State) (q : Nat × Nat) =>
        s.wakeBySlot { space := .tier2, addr := q.1 / 128 * 128, keyid := 0, dual := none }) s
      ({ s with companion := s.companion.write addr data } : State).noteRewrite .tier2 addr data.length
  s.answer (some found)

/-- An access to host memory. -/
def State.companionHost (s : State) (addr : Nat) (a : HostAccess) : State :=
  let found := s.host.read addr (accessLength a)
  (match accessStores a found with
    | none => s
    | some data => { s with host := s.host.write addr data }).answer (some found)

/-- What a line of an aperture, of a GPA, answers (R441, R432): the copy that serves it, or why it cannot be reached. -/
def State.apertureLine (s : State) (vd gpa : Nat) (wr : Bool) : RangeAnswer × Place :=
  let v := s.vd vd
  match v.range gpa (if wr then .write else .read) with
  | .ok hpa keyid =>
    let p : Place := { space := .device, addr := hpa / 128 * 128, keyid := keyid, dual := v.dual? gpa }
    (if s.worldDenies vd p then .world ((s.served vd p false).addr + hpa % 128) else .ok hpa keyid, s.served vd p false)
  | r => (r, { space := .device, addr := 0, keyid := 0, dual := none })

/-- An access from outside is held: for a page request, or until its lines are free. -/
def State.hold (s : State) (vd : Nat) (w : HostWhat) (miss : Option (Nat × Nat)) : State :=
  { s with outside := s.outside ++ [{ vd := vd, what := w, miss := miss }] }

/-- An access to an aperture: the range table alone translates it. A miss makes a page request and holds it, as a line that waits at its
home does; a denied or refused one has no effect (R392, R432, R441; log 80). -/
def State.aperture (s : State) (vd gpa : Nat) (a : HostAccess) (w : HostWhat) (answer : State → Option (List Byte) → State) : State :=
  let ls := (linePieces gpa (accessLength a)).map fun q => (q, s.apertureLine vd q.1 (accessWrites a))
  let places := ls.map fun l => l.2.2
  match ls.find? (fun l => decide (l.2.1 = .miss)) with
  | some (q, _) => (s.pageMiss vd 0 0 0 q.1 0 (accessWrites a) [.outside vd]).hold vd w (some (0, q.1 / unit2M))
  | none =>
    match ls.filterMap fun l => match l.2.1 with | .ok .. => none | .world hpa => some (some hpa) | _ => some none with
    | [] =>
      if places.any s.lineBlocked then (places.foldl State.callChannel s).hold vd w none
      else
        let s := places.foldl State.heal s
        let needs : Bool := match a with | .write _ => false | _ => true
        if needs && places.any fun p => (s.readSyndrome p).isSome then answer s none
        else
          let found := ls.flatMap fun l => s.lineBytes l.2.2 (l.1.1 % 128) l.1.2
          let s := if needs && places.any s.wrongKey then { s with fresh := s.fresh + 128 } else s
          let s := match accessStores a found with
            | none => s
            | some data => ls.foldl (fun (s : State) (l : (Nat × Nat) × RangeAnswer × Place) =>
                let bs := (data.drop (l.1.1 - gpa)).take l.1.2
                ((s.wakeBySlot l.2.2).storeLine vd l.2.2 (l.1.1 % 128) bs).noteRewrite .device (l.2.2.addr + l.1.1 % 128) bs.length) s
          answer s.wakeAwaits (some found)
    | bad => answer ((bad.filterMap id).foldl (fun s hpa =>
        s.logWorld { hpa := hpa, src := 0, kind := if (accessWrites a) then 1 else 0, engine := false, dev := vd }) s) none

/-! ### Peer packages (R160, R445, R446) -/

/-- The 64 bytes of a slot, with RDY as given. -/
def slotBytes (words : List Word) (rdy : Bool) : List Byte :=
  let bs := (List.range 16).flatMap fun k => leBytes 4 (words.getD k 0#32).toNat
  match bs with
  | b :: rest => (if rdy then b ||| 0x80#8 else b &&& 0x7F#8) :: rest
  | [] => []

/-- The claim, the writes of the slot and of RDY of a peer's append, in one ordered flow. A queue that is full, or whose
descriptor or slot cannot be reached, takes nothing; one whose lines miss or wait takes it later. -/
def State.append (s : State) (vd desc : Nat) (words : List Word) : State :=
  let w : HostWhat := .append desc words
  let missed (g : Nat) (t : Bool) (va : Nat) : State :=
    (s.pageMiss vd 0 0xFFFF va g (if t then 1 else 3) true [.outside vd]).hold vd w (some (0, g / unit2M))
  let failed (b : Bad) : State := match b with
    | .fault (some hpa) => s.logWorld { hpa := hpa, src := 0, kind := 1, engine := false, dev := vd }
    | _ => s
  match s.desc vd desc with
  | .error (.miss g t) => missed g t desc
  | .error b => failed b
  | .ok d =>
    let a := d.slotAt d.widx
    if !s.linesFree vd [desc, a] then ((s.reached vd [desc, a]).foldl State.callChannel s).hold vd w none
    else if d.full then s
    else
      match s.place vd a .write with
      | .error (.miss g t) => missed g t a
      | .error b => failed b
      | .ok _ =>
        match ((s.writeVa vd (desc + 12) (leBytes 4 ((d.widx + 1) % 2 ^ 32))).bind fun s => s.writeVa vd a (slotBytes words false)).bind fun s =>
            s.writeVa vd a ((slotBytes words true).take 1) with
        | .error _ => s
        | .ok s => s.wakeDevice vd

/-! ### Accesses from outside -/

/-- Die 3 is TRUSTED, on which the links to the companion and to peers end (R16, R26). -/
def State.outsideUp (s : State) : Bool := decide ((s.die 3).state = .trusted)

/-- Perform what an agent outside the package asks of a device. -/
def State.performOutside (s : State) (vd : Nat) (w : HostWhat) : State :=
  if !s.outsideUp then (match w with | .aperture .. => s.answer none | _ => s)
  else
    match w with
    | .aperture gpa a => s.aperture vd gpa a w State.answer
    | .peerWrite gpa data _ => s.aperture vd gpa (.write data) w fun s _ => s
    | .append desc words => s.append vd desc words

/-- The lines of GPA that an access by GPA reaches. -/
def HostWhat.gpaLines : HostWhat → List Nat
  | .aperture gpa a => (linePieces gpa (accessLength a)).map (·.1 / 128)
  | .peerWrite gpa data _ => (linePieces gpa data.length).map (·.1 / 128)
  | .append .. => []

/-- Two accesses from outside may reach one line: by one GPA line of a device, or by two that lie in one place. -/
def State.shareLine (s : State) (vd vd' : Nat) (w w' : HostWhat) : Bool :=
  let places (vd : Nat) (w : HostWhat) : List (Space × Nat) := w.gpaLines.filterMap fun l =>
    match s.apertureLine vd (128 * l) true, s.apertureLine vd (128 * l) false with
    | (.ok .., p), _ | _, (.ok .., p) => some (p.space, p.addr)
    | _, _ => none
  (vd == vd' && w.gpaLines.any w'.gpaLines.contains) || (places vd w).any (places vd' w').contains

/-- A held access comes before a later one: the accesses of one agent to one line, and those of one ordered flow, keep their order
(R137, R145, R146); the release of an append waits for every earlier access of its agent, and no access of that agent passes a held
append (R144, R446; log 133). -/
def State.holdsBack (s : State) (x : HostReq) (vd : Nat) (w : HostWhat) : Bool :=
  x.what.companion == w.companion &&
  match x.what, w with
  | .append .., _ | _, .append .. => true
  | .peerWrite _ _ (some f), .peerWrite _ _ (some f') => (f == f' && x.vd == vd) || s.shareLine x.vd vd x.what w
  | _, _ => s.shareLine x.vd vd x.what w

/-- What an agent outside the package asks of a device is performed, or held behind its earlier accesses. -/
def State.doOutside (s : State) (vd : Nat) (w : HostWhat) : State :=
  if s.outsideUp && s.outside.any fun x => s.holdsBack x vd w then s.hold vd w none else s.performOutside vd w

/-- A held access is tried again, if its page request has been answered and nothing held before it comes first. It keeps its place where
it is held again. -/
def State.retryHeld (s : State) (n : Nat) : State :=
  match s.outside[n]? with
  | none => s
  | some x =>
    if x.miss.isSome || (s.outside.take n).any fun y => s.holdsBack y x.vd x.what then s
    else
      let s' := ({ s with outside := [] } : State).performOutside x.vd x.what
      { s' with outside := s.outside.take n ++ s'.outside ++ s.outside.drop (n + 1) }

/-- The first held access that can now be performed. -/
def State.heldReady (s : State) : Option Nat :=
  (List.range s.outside.length).find? fun n => decide ((s.retryHeld n).outside.length < s.outside.length)

/-- COMPANION_ACCESS: the companion processor reaches companion memory, host memory, or a device's memory through its aperture. -/
def execCompanionAccess (dest : Reach) (addr : Nat) (what : HostAccess) (s : State) : Host.Outcome State Fault Refusal :=
  .next (match dest with
    | .tier2 => s.companionTier2 addr what
    | .host => s.companionHost addr what
    | .aperture vd => s.doOutside vd (.aperture addr what))

/-- PEER_INBOUND_APPEND: a peer package appends to a local queue through its port. -/
def execPeerInboundAppend (vd desc : Nat) (words : List Word) (s : State) : Host.Outcome State Fault Refusal :=
  .next (s.doOutside vd (.append desc words))

/-! ### What a read of a register returns (R9) -/

/-- RESULT in [27:24] or elsewhere, beside BUSY in bit 31. -/
def busyWord (busy : Bool) (rest : Nat) : Word := BitVec.ofNat 32 ((if busy then 2 ^ 31 else 0) + rest)

/-- MSTATE (R434). -/
def VDev.mooring (v : VDev) : Word := match v.moor with | .running => 0#32 | .mooring => 1#32 | .moored => 2#32 | .waking => 3#32

/-- What a read of such a register returns: fields that are WO or MBZ read as zero. -/
def State.readCommand (s : State) (vd : Nat) (secure : Bool) : CommandReg → Word
  | .vdl2 => busyWord (s.vd vd).l2Busy ((s.vd vd).l2.toNat % 2 ^ 13)
  | .vdpol => (s.vd vd).pol
  | .vdmoor =>
    let v := s.vd vd
    BitVec.ofNat 32 ((if v.moorReq then 16 else 0) + 4 * v.mooring.toNat + v.cls)
  | .vdreset => if (s.vd vd).resetDone then 2#32 else 0#32
  | .fsroot n => if n = 0 then (s.vd vd).fsroot0 else (s.vd vd).fsroot1
  | .rtcmd => busyWord (s.vd vd).rtBusy.isSome 0
  | .pubcmd => busyWord (s.vd vd).pubBusy ((s.vd vd).pubResult * 2 ^ 28)
  | .clqown c => (s.cluster c).own
  | .clspb c => (s.cluster c).spb
  | .svcmd => busyWord s.sv.busy (s.sv.result * 2 ^ 24)
  | .keycmd => if secure then busyWord s.trust.keyBusy (s.trust.keyResult * 2 ^ 28) else 0#32
  | .dierst | .wake => 0#32
  | .wlogstat => if secure then s.wlogStat else 0#32

/-- What a read of any other register returns; one of the secure world alone reads as zero from the other (log 100). -/
def State.readRegister (s : State) (r : HReg) (vd : Nat) (secure : Bool) : Word :=
  let v := s.vd vd
  match r with
  | .vdsched k => match k with | 0 => v.sched0 | 1 => v.sched1 | 2 => v.qeff | 3 => v.sched3 | _ => 0#32
  | .vdsave k => v.save.getD k 0#32
  | .vdctl => BitVec.ofNat 32 ((if v.asked then 1 else 0) + (if v.quiesced then 2 else 0) + (if v.restfail then 4 else 0))
  | .rtstage k => v.rtstage.getD k 0#32
  | .pubstage k => v.pubstage.getD k 0#32
  | .prq k => v.prq.getD k 0#32
  | .rpq k => v.rpq.getD k 0#32
  | .rqcfg => v.rqcfg
  | .prqw => v.prqw
  | .prqr => v.prqr
  | .rpqw => v.rpqw
  | .rpqr => v.rpqr
  | .vdrate => v.rate
  | .keyarg k => if secure then s.trust.keyargs.getD k 0#32 else 0#32
  | .keydata _ => 0#32
  | .svthr k => match k with | 0 => s.sv.thr0 | 1 => s.sv.thr1 | 2 => s.sv.thr2 | _ => 0#32
  | .svscrub => s.sv.scrub
  | .svspare => s.svSpare
  | .svarg k => s.sv.args.getD k 0#32
  | .svcsel => s.sv.csel
  | .svcnt => BitVec.ofNat 32 s.svCount
  | .svcmd => s.readCommand vd secure .svcmd
  | .itsel => s.sv.itsel
  | .itent k =>
    let e := s.region (bitsOf s.sv.itsel.toNat 0 12)
    if k = 0 then BitVec.ofNat 32 (e.bits (s.lostOf e)) else s.sv.itent1
  | .wlogsel => if secure then BitVec.ofNat 32 s.trust.wlogIndex else 0#32
  | .wlogdat k => if secure then s.wlogData k else 0#32
  | .pwrlim => BitVec.ofNat 32 s.trust.pwrlim
  | .pwrnow => BitVec.ofNat 32 s.trust.pwrnow
  | .thrstat => s.thrStat
  | .startstat => s.startStat
  | .diestat n => (s.die n).stat
  | .vdmstate => v.mooring
  | .pairing port => match v.paired.find? fun e => e.1 == port with
    | some (_, package, device) => BitVec.ofNat 32 (2 ^ 31 + package * 256 + device)
    | none => 0#32
  | .page offset => match offset with
    | 0x000 => s.readCommand vd secure (.fsroot 0)
    | 0x004 => s.readCommand vd secure (.fsroot 1)
    | 0x020 => v.mooring
    | _ => 0#32

/-- The companion processor or the Pilot reads a register. A read of ITENT0 latches ITENT1, and one of WLOGSTAT clears LOST, whatever
row it goes by (R9, R410, R432). -/
def State.takeRead (s : State) (r : HReg) (vd : Nat) (secure : Bool) : State :=
  match r with
  | .itent 0 => s.latchItent
  | _ => { s with readData := s.readRegister r vd secure }
def State.takeReadCommand (s : State) (r : CommandReg) (vd : Nat) (secure : Bool) : State :=
  match r with
  | .wlogstat => s.takeWlogstat secure
  | _ => { s with readData := s.readCommand vd secure r }

/-! ### Registers (R11) -/

/-- Write word n of a list of words. -/
def putWord (l : List Word) (n : Nat) (w : Word) : List Word := if n < l.length then l.set n w else l

/-- A write of VDSCHED0 or VDSCHED1; VDSCHED2 and VDSCHED3 are read-only. -/
def VDev.writeSched (v : VDev) (n : Nat) (w : Word) : VDev :=
  match n with
  | 0 => if bitsOf w.toNat 8 8 = 0 then { v with sched0 := w } else v
  | 1 => if bitsOf w.toNat 18 14 = 0 ∧ bitsOf w.toNat 0 16 ≠ 0 then { v with sched1 := w } else v
  | _ => v

/-- A write of VDSAVE0 to VDSAVE2. -/
def VDev.writeSave (v : VDev) (n : Nat) (w : Word) : VDev :=
  match n with
  | 0 => if bitsOf w.toNat 0 21 = 0 then { v with save := putWord v.save 0 w } else v
  | 1 | 2 => if bitsOf w.toNat 16 16 = 0 then { v with save := putWord v.save n w } else v
  | _ => v

/-- A write of a base register of a ring: a multiple of 4 KiB below 2^48. -/
def writeBase (l : List Word) (n : Nat) (w : Word) : List Word :=
  match n with
  | 0 => if w.toNat % 4096 = 0 then putWord l 0 w else l
  | 1 => if w.toNat < 65536 then putWord l 1 w else l
  | _ => l

/-- A write of VDCTL: RESTFAIL is cleared by a 1, and QUIESCE asks for quiescence or ends it (R371, R380). -/
def State.writeVdctl (s : State) (vd : Nat) (w : Word) : State :=
  if bitsOf w.toNat 3 29 ≠ 0 then s
  else
    let v := s.vd vd
    let s := if w.getLsbD 2 then s.setVd vd { v with restfail := false } else s
    if w.getLsbD 0 then s.askQuiesce vd else s.askNoQuiesce vd

/-- A write of a register of a virtual device. -/
def State.modVd (s : State) (vd : Nat) (f : VDev → VDev) : State := s.setVd vd (f (s.vd vd))

/-- A write of the survival registers (R409, R410). -/
def Survival.writeThr (v : Survival) (n : Nat) (w : Word) : Survival :=
  match n with
  | 0 => { v with thr0 := w }
  | 1 => if bitsOf w.toNat 26 6 ≠ 0 ∨ bitsOf w.toNat 24 2 = 3 ∨ bitsOf w.toNat 16 8 = 0 then v else { v with thr1 := w }
  | 2 => if bitsOf w.toNat 16 16 ≠ 0 then v else { v with thr2 := w }
  | _ => v
def Survival.writeScrub (v : Survival) (w : Word) : Survival :=
  if bitsOf w.toNat 8 8 = 0 ∨ bitsOf w.toNat 0 8 = 0 then v
  else { v with scrub := (v.scrub &&& 0xFFFF0000#32) ||| (w &&& 0xFFFF#32) }

/-- REGISTER_WRITE: a write with an MBZ bit set, or with a reserved value in any field, is discarded whole; a register that
is read-only, or reached from the secure world alone by another, keeps its value. -/
def execRegisterWrite (r : HReg) (vd : Nat) (value : Word) (secure : Bool) (s : State) : Host.Outcome State Fault Refusal :=
  let n := value.toNat
  .next (match r with
    | .vdsched k => s.modVd vd fun v => v.writeSched k value
    | .vdsave k => s.modVd vd fun v => v.writeSave k value
    | .vdctl => s.writeVdctl vd value
    | .rtstage k => s.modVd vd fun v => if v.rtBusy.isSome then v else { v with rtstage := putWord v.rtstage k value }
    | .pubstage k => s.modVd vd fun v => if v.pubBusy then v else { v with pubstage := putWord v.pubstage k value }
    | .prq k => s.modVd vd fun v => { v with prq := writeBase v.prq k value }
    | .rpq k => s.modVd vd fun v => { v with rpq := writeBase v.rpq k value }
    | .rqcfg => s.modVd vd fun v =>
        let ok (x : Nat) : Bool := decide (4 ≤ x) && decide (x ≤ 12)
        if n < 256 ∧ ok (n % 16) ∧ ok (n / 16) then { v with rqcfg := value } else v
    | .prqr => (s.modVd vd fun v => { v with prqr := value }).writePageReqs vd ((s.vd vd).pageReqs.length + 1)
    | .rpqw => s.modVd vd fun v => { v with rpqw := value }
    | .vdrate => s.modVd vd fun v =>
        if bitsOf n 16 16 ≠ 0 ∧ bitsOf n 0 16 = 0 then v else { v with rate := value, tokens := min v.tokens (bitsOf n 0 16) }
    | .keyarg k => if secure then { s with trust := { s.trust with keyargs := putWord s.trust.keyargs k value } } else s
    | .keydata k => if secure then { s with trust := { s.trust with keydata := putWord s.trust.keydata k value } } else s
    | .svthr k => let s := s.lapseAdv4; ({ s with sv := s.sv.writeThr k value } : State).checkAdv4
    | .svscrub => { s with sv := s.sv.writeScrub value }
    | .svarg k => if s.sv.busy ∨ (k = 0 ∧ bitsOf n 30 2 ≠ 0) then s else { s with sv := { s.sv with args := putWord s.sv.args k value } }
    | .svcsel => if bitsOf n 30 2 = 3 ∨ 12 ≤ bitsOf n 0 4 then s else { s with sv := { s.sv with csel := value } }
    | .svcmd => -- commands 1 to 7 have rows of their own
        if s.sv.busy ∨ bitsOf n 4 20 ≠ 0 ∨ bitsOf n 28 3 ≠ 0 ∨ bitsOf n 0 4 - 1 < 7 ∧ bitsOf n 0 4 ≠ 0 then s else s.svResult 1
    | .itsel => if n < 4096 then { s with sv := { s.sv with itsel := value } } else s
    | .wlogsel => s.writeWlogsel value secure
    | .pwrlim => if 400 ≤ n ∧ n ≤ 3200 then { s with trust := { s.trust with pwrlim := n } } else s
    | .startstat => if n < 2 ^ 24 ∧ value.getLsbD 3 then { s with trust := { s.trust with coldNext := true } } else s
    | .pairing port => s.modVd vd fun v =>
        let others := v.paired.filter fun e => e.1 != port
        if 8 ≤ port ∨ bitsOf n 24 7 ≠ 0 ∨ bitsOf n 6 2 ≠ 0 then v
        else { v with paired := if bitOf n 31 then (port, bitsOf n 8 16, bitsOf n 0 6) :: others else others }
    | .page offset => match offset with -- R444
      | 0x000 => s.writeFsroot vd 0 value
      | 0x004 => s.writeFsroot vd 1 value
      | 0x010 => if value = 1#32 then s.wakeDevice vd else s
      | _ => s
    | .prqw | .rpqr | .svspare | .svcnt | .itent _ | .wlogdat _ | .pwrnow | .thrstat | .diestat _ | .vdmstate => s)

end Sys2Proof.Machine
end

