-- ==== Sys2Proof/Machine/Matrix.lean ====
section
/-!
DEFINITION. Matrix instructions, opcodes 0x65 to 0x6F, at issue (16 R325 to R334; 08 R186, R187): the checks, and the
command that enters the unit's queue with the values it read. What it does there is in MatrixUnit.lean.
-/
namespace Sys2Proof.Machine

/-- What a matrix instruction does beside its checks and its command: the accesses that must be performed before it, its race
check and flow, that it accesses memory, that its context parks until it returns, and that it starts a consistency region
(R136, R188, R201). -/
structure MatrixUse where
  access : Bool := false
  waits : List Nat := []
  check : Option RaceCheck := none
  flow : Option Nat := none
  park : Bool := false
  region : Bool := false

/-- While commands are held after a trap, those that the context issues outside a handler are held behind them (R328). -/
def Here.holdsNew (h : Here) : Bool := !h.group.munit.held.isEmpty && !h.frag.priv

/-- The shared course of a matrix instruction: the register checks, its own checks at issue, and its command in the queue
with an outstanding operation; a guard that fails does nothing (R186). -/
def State.matrixOp (s : State) (h : Here) (y : Bool) (u : Uses) (own : Unit → Option Trap) (m : MatrixUse) (what : MOp) : State :=
  let u := { u with illop := u.illop || !h.team.isCore, act := h.active, long := true }
  s.checked h u fun h =>
    let h := { h with fresh := if h.readsFree u then h.fresh + 4096 else h.fresh }
    let h : Here := if m.region then (let r := h.team.newRegion h.frag; { h with team := r.1, frag := r.2 }) else h
    if u.act = 0#1024 then s.put { h with frag := h.frag.finish y }
    else
      match own () with
      | some t => s.put (h.raise u.act { t with dest := u.destWords })
      | none =>
        let hold : Bool := h.holdsNew
        let o := h.newOut u (if hold then .held else .matrix)
        let c : Cmd := { op := o.id, pc := h.frag.pc, word := u.word, what := what, acc := s.nextReq, waits := m.waits.filter s.outstanding,
                         check := m.check, hint := modeHint h.frag.mode, lines := none, miss := [], missing := [], deny := [], paid := 0, flow := m.flow, part := false }
        let h := h.start o []
        let full : Bool := hold && decide (16 ≤ h.group.munit.held.length + 1)
        let f := { h.frag with hist := if m.access then h.frag.hist.filter s.unsettled ++ [s.nextReq] else h.frag.hist,
                               park := if m.park && !hold then .mwait o.id
                                 else if (m.park || full) && !y then .drain else h.frag.park }
        let unit := h.group.munit
        let h := { h with group := { h.group with munit := if hold then { unit with held := unit.held ++ [c] } else { unit with queue := unit.queue ++ [c] } },
                          frag := f.finish y }
        ({ s with nextReq := s.nextReq + 1 } : State).put h

/-- A matrix instruction without memory operands. -/
def State.matrixTile (s : State) (h : Here) (y : Bool) (u : Uses) (what : MOp) : State :=
  s.matrixOp h y u (fun _ => none) {} what

/-- MAINIT with an explicit window (R192, R193). -/
def execMainit (y : Bool) (c : BitVec 2) (t : BitVec 3) (w : BitVec 12) (s : State) : Host.Outcome State Fault Refusal :=
  issueS s fun h =>
    s.matrixTile h y { word := wordOf (.mainit y c t w), illop := c == 3#2 || (c == 2#2 && t.getLsbD 0) } (.init c.toNat t.toNat w.toInt)

/-- MAINIT with AUTO and a headroom (R193). -/
def execMainitAuto (y : Bool) (c : BitVec 2) (t : BitVec 3) (hr : BitVec 5) (s : State) : Host.Outcome State Fault Refusal :=
  issueS s fun h =>
    s.matrixTile h y { word := wordOf (.mainitAuto y c t hr), illop := c == 3#2 || (c == 2#2 && t.getLsbD 0) }
      (.initAuto c.toNat t.toNat hr.toNat)

/-- MMA (R194). -/
def execMma (y : Bool) (t : BitVec 3) (s : State) : Host.Outcome State Fault Refusal :=
  issueS s fun h => s.matrixTile h y { word := wordOf (.mma y t) } (.mma t.toNat)

/-- MRESOLVE (R196). -/
def execMresolve (y : Bool) (t : BitVec 3) (s : State) : Host.Outcome State Fault Refusal :=
  issueS s fun h => s.matrixTile h y { word := wordOf (.mresolve y t) } (.resolve t.toNat)

/-- The shared course of both forms of MDRAIN (R329). -/
def State.drainOp (s : State) (h : Here) (y : Bool) (w : Word) (t : BitVec 3) (b k : BitVec 4) (i : BitVec 8) (raw : Bool) : State :=
  let win := h.group.window? b.toNat
  let lsz := if raw then 4 else log2 h.format.bytes
  let e := (h.read i.toNat 0).toNat + k.toNat
  let u : Uses := { word := w, illop := (win.map fun x => x.log2sz != lsz).getD false, reads := [(i.toNat, 1)], window := some b.toNat }
  let x := win.getD { num := b.toNat, offset := 0, log2sz := lsz, extent := 0 }
  s.matrixOp h y u (fun _ => h.elementCheck x.buf h.active [0] (fun _ => (List.range 1024).map (e + ·)) false)
    { access := true, waits := h.frag.release, check := h.spadCheck } (.drain t.toNat raw x e h.type h.rnd h.sat h.ftz)

/-- MDRAIN, typed. -/
def execMdrain (y : Bool) (t : BitVec 3) (b k : BitVec 4) (i : BitVec 8) (s : State) : Host.Outcome State Fault Refusal :=
  issueS s fun h => s.drainOp h y (wordOf (.mdrain y t b k i)) t b k i false

/-- MDRAIN, raw. -/
def execMdrainRaw (y : Bool) (t : BitVec 3) (b k : BitVec 4) (i : BitVec 8) (s : State) : Host.Outcome State Fault Refusal :=
  issueS s fun h => s.drainOp h y (wordOf (.mdrainRaw y t b k i)) t b k i true

/-- MDRAINP (R200, R332): a release of the context's accesses; a group without a partner traps NOPARTNER. -/
def execMdrainp (y : Bool) (t u : BitVec 3) (s : State) : Host.Outcome State Fault Refusal :=
  issueS s fun h =>
    s.matrixOp h y { word := wordOf (.mdrainp y t u), ccWrite := h.ccw }
      (fun _ => if (s.partner h.group).isNone then some { cause := cNOPARTNER } else none)
      { waits := h.frag.hist, region := true } (.drainp t.toNat u.toNat)

/-- The shared course of MSAVE and MLOAD (R330): the buffer, the element check, and the command. -/
def State.imageOp (s : State) (h : Here) (y : Bool) (w : Word) (b : BitVec 4) (window : Bool) (a : BitVec 8) (reads : List (Nat × Nat))
    (store : Bool) (own : Unit → Option Trap) (what : Target → Nat → MOp) : State :=
  let win := h.group.window? b.toNat
  let r := h.bufRecord b.toNat
  let e := (h.read a.toNat 0).toNat
  let target : Target := if window then .window (win.getD { num := b.toNat, offset := 0, log2sz := 4, extent := 0 }) else .record r
  let u : Uses :=
    { word := w, illop := if window then (win.map fun x => x.log2sz != 4).getD false else recLog2 r != 4,
      reads := (a.toNat, 1) :: reads, window := if window then some b.toNat else none, brec := if window then none else some b.toNat }
  s.matrixOp h y u
    (fun _ => (own ()).or (h.elementCheck (target.buf b.toNat) h.active [0] (fun _ => (List.range 1024).map (e + ·))
      (store && !window && (recRo r || recPub r))))
    { access := true, waits := if store then h.frag.release else [], check := if window then h.spadCheck else h.recordCheck b.toNat,
      flow := if window then none else h.flowOf b.toNat } (what target e)

/-- MSAVE to a buffer. -/
def execMsave (y : Bool) (b : BitVec 4) (t : BitVec 3) (a : BitVec 8) (s : State) : Host.Outcome State Fault Refusal :=
  issueS s fun h => s.imageOp h y (wordOf (.msave y b t a)) b false a [] true (fun _ => none) fun x e => .save t.toNat x b.toNat e

/-- MSAVE to a window. -/
def execMsaveWindow (y : Bool) (b : BitVec 4) (t : BitVec 3) (a : BitVec 8) (s : State) : Host.Outcome State Fault Refusal :=
  issueS s fun h => s.imageOp h y (wordOf (.msaveWindow y b t a)) b true a [] true (fun _ => none) fun x e => .save t.toNat x b.toNat e

/-- A header in a register that MLOAD refuses (R198, R327). -/
def Here.headerTrap (h : Here) (w : Word) (t : BitVec 3) (c : BitVec 8) : Option Trap :=
  if headerOk (h.read c.toNat 0).toNat t.toNat then none else some { cause := cILLOP, detail := w }

/-- MLOAD from a buffer. -/
def execMload (y : Bool) (b : BitVec 4) (t : BitVec 3) (a c : BitVec 8) (s : State) : Host.Outcome State Fault Refusal :=
  issueS s fun h =>
    let w := wordOf (.mload y b t a c)
    s.imageOp h y w b false a [(c.toNat, 1)] false (fun _ => h.headerTrap w t c) fun x e => .load t.toNat x b.toNat e (h.read c.toNat 0)

/-- MLOAD from a window. -/
def execMloadWindow (y : Bool) (b : BitVec 4) (t : BitVec 3) (a c : BitVec 8) (s : State) : Host.Outcome State Fault Refusal :=
  issueS s fun h =>
    let w := wordOf (.mloadWindow y b t a c)
    s.imageOp h y w b true a [(c.toNat, 1)] false (fun _ => h.headerTrap w t c) fun x e => .load t.toNat x b.toNat e (h.read c.toNat 0)

/-- MCMP (R197, R331): the threshold is an fp32 pattern. -/
def execMcmp (y : Bool) (d : BitVec 8) (t : BitVec 3) (b : BitVec 8) (s : State) : Host.Outcome State Fault Refusal :=
  issueS s fun h =>
    s.matrixTile h y { word := wordOf (.mcmp y d t b), writes := [(d.toNat, 1)], reads := [(b.toNat, 1)] }
      (.cmp t.toNat (h.read b.toNat 0))

/-- MDROP of a tile (R333). -/
def execMdrop (y : Bool) (t : BitVec 3) (s : State) : Host.Outcome State Fault Refusal :=
  issueS s fun h => s.matrixTile h y { word := wordOf (.mdrop y t) } (.drop t.toNat)

/-- MDROP of n entries of fa. -/
def execMdropFa (y : Bool) (n : BitVec 16) (s : State) : Host.Outcome State Fault Refusal :=
  issueS s fun h =>
    s.matrixTile h y { word := wordOf (.mdropFa y n), illop := n == 0#16 || decide (16 < n.toNat) } (.dropFifo false n.toNat)

/-- MDROP of n entries of fb. -/
def execMdropFb (y : Bool) (n : BitVec 16) (s : State) : Host.Outcome State Fault Refusal :=
  issueS s fun h =>
    s.matrixTile h y { word := wordOf (.mdropFb y n), illop := n == 0#16 || decide (16 < n.toNat) } (.dropFifo true n.toNat)

/-- MSTAT (R331). -/
def execMstat (y : Bool) (d : BitVec 8) (t : BitVec 3) (s : State) : Host.Outcome State Fault Refusal :=
  issueS s fun h => s.matrixTile h y { word := wordOf (.mstat y d t), writes := [(d.toNat, 1)] } (.stat t.toNat)

/-- MWAIT (R201): the context parks until it returns. -/
def execMwait (y : Bool) (t : BitVec 3) (n : BitVec 8) (s : State) : Host.Outcome State Fault Refusal :=
  issueS s fun h =>
    s.matrixOp h y { word := wordOf (.mwait y t n), illop := n == 0#8 } (fun _ => none) { park := true, region := true }
      (.wait t.toNat n.toNat)

end Sys2Proof.Machine
end

