-- ==== Sys2Proof/Machine/Dispatch.lean ====
section
/-!
DEFINITION. The meaning of each instruction and event: one arm per constructor of Instr.
-/
namespace Sys2Proof.Machine

/-- What an instruction of the fragment that `cur` names does, or an event that happens. -/
def exec (i : Instr) (s : State) : Host.Outcome State Fault Refusal :=
  match i with
  | .nop y => Sys2Proof.Machine.execNop y s
  | .bra y cc cond off => Sys2Proof.Machine.execBra y cc cond off s
  | .jmp y off => Sys2Proof.Machine.execJmp y off s
  | .jmpReg y a => Sys2Proof.Machine.execJmpReg y a s
  | .call y off => Sys2Proof.Machine.execCall y off s
  | .callReg y a => Sys2Proof.Machine.execCallReg y a s
  | .ret y a => Sys2Proof.Machine.execRet y a s
  | .conv y off => Sys2Proof.Machine.execConv y off s
  | .fuse y => Sys2Proof.Machine.execFuse y s
  | .exit y => Sys2Proof.Machine.execExit y s
  | .bar y n => Sys2Proof.Machine.execBar y n s
  | .acquire y => Sys2Proof.Machine.execAcquire y s
  | .fork y a b => Sys2Proof.Machine.execFork y a b s
  | .rdv y => Sys2Proof.Machine.execRdv y s
  | .setmode y m => Sys2Proof.Machine.execSetmode y m s
  | .getmode y d => Sys2Proof.Machine.execGetmode y d s
  | .iregion y => Sys2Proof.Machine.execIregion y s
  | .sleepuntil y a => Sys2Proof.Machine.execSleepuntil y a s
  | .trap y code => Sys2Proof.Machine.execTrap y code s
  | .tretRetry y => Sys2Proof.Machine.execTretRetry y s
  | .tretSkip y => Sys2Proof.Machine.execTretSkip y s
  | .tretTerm y => Sys2Proof.Machine.execTretTerm y s
  | .movi y d imm => Sys2Proof.Machine.execMovi y d imm s
  | .movih y d imm => Sys2Proof.Machine.execMovih y d imm s
  | .addi y d imm => Sys2Proof.Machine.execAddi y d imm s
  | .mov y d a => Sys2Proof.Machine.execMov y d a s
  | .iadd y d a b => Sys2Proof.Machine.execIadd y d a b s
  | .isub y d a b => Sys2Proof.Machine.execIsub y d a b s
  | .imul y d a b => Sys2Proof.Machine.execImul y d a b s
  | .imulh y d a b => Sys2Proof.Machine.execImulh y d a b s
  | .imad y d a b => Sys2Proof.Machine.execImad y d a b s
  | .idiv y d a b => Sys2Proof.Machine.execIdiv y d a b s
  | .irem y d a b => Sys2Proof.Machine.execIrem y d a b s
  | .imin y d a b => Sys2Proof.Machine.execImin y d a b s
  | .imax y d a b => Sys2Proof.Machine.execImax y d a b s
  | .iabs y d a => Sys2Proof.Machine.execIabs y d a s
  | .icmp y a b => Sys2Proof.Machine.execIcmp y a b s
  | .and y d a b => Sys2Proof.Machine.execAnd y d a b s
  | .or y d a b => Sys2Proof.Machine.execOr y d a b s
  | .xor y d a b => Sys2Proof.Machine.execXor y d a b s
  | .shl y d a b => Sys2Proof.Machine.execShl y d a b s
  | .shr y d a b => Sys2Proof.Machine.execShr y d a b s
  | .sar y d a b => Sys2Proof.Machine.execSar y d a b s
  | .bfe y d a b => Sys2Proof.Machine.execBfe y d a b s
  | .bfi y d a b => Sys2Proof.Machine.execBfi y d a b s
  | .popc y d a => Sys2Proof.Machine.execPopc y d a s
  | .clz y d a => Sys2Proof.Machine.execClz y d a s
  | .brev y d a => Sys2Proof.Machine.execBrev y d a s
  | .cvt y d a f => Sys2Proof.Machine.execCvt y d a f s
  | .cvtFrom y d a f => Sys2Proof.Machine.execCvtFrom y d a f s
  | .sel y d a b => Sys2Proof.Machine.execSel y d a b s
  | .fadd y d a b => Sys2Proof.Machine.execFadd y d a b s
  | .fsub y d a b => Sys2Proof.Machine.execFsub y d a b s
  | .fmul y d a b => Sys2Proof.Machine.execFmul y d a b s
  | .ffma y d a b => Sys2Proof.Machine.execFfma y d a b s
  | .fmin y d a b => Sys2Proof.Machine.execFmin y d a b s
  | .fmax y d a b => Sys2Proof.Machine.execFmax y d a b s
  | .fcmp y a b => Sys2Proof.Machine.execFcmp y a b s
  | .fsgn y d a b => Sys2Proof.Machine.execFsgn y d a b s
  | .frcp y d a => Sys2Proof.Machine.execFrcp y d a s
  | .frsq y d a => Sys2Proof.Machine.execFrsq y d a s
  | .fsqrt y d a => Sys2Proof.Machine.execFsqrt y d a s
  | .fdiv y d a b => Sys2Proof.Machine.execFdiv y d a b s
  | .fexp2 y d a => Sys2Proof.Machine.execFexp2 y d a s
  | .flog2 y d a => Sys2Proof.Machine.execFlog2 y d a s
  | .fsin y d a => Sys2Proof.Machine.execFsin y d a s
  | .fcos y d a => Sys2Proof.Machine.execFcos y d a s
  | .fclass y d a => Sys2Proof.Machine.execFclass y d a s
  | .frnd y d a k => Sys2Proof.Machine.execFrnd y d a k s
  | .rfal y d a => Sys2Proof.Machine.execRfal y d a s
  | .ballot y d a => Sys2Proof.Machine.execBallot y d a s
  | .vote y d a k => Sys2Proof.Machine.execVote y d a k s
  | .shfl y d a b => Sys2Proof.Machine.execShfl y d a b s
  | .xshuf y d a b => Sys2Proof.Machine.execXshuf y d a b s
  | .redu y d a k => Sys2Proof.Machine.execRedu y d a k s
  | .scan y d a e k => Sys2Proof.Machine.execScan y d a e k s
  | .shape y d a => Sys2Proof.Machine.execShape y d a s
  | .widf y d f => Sys2Proof.Machine.execWidf y d f s
  | .widf64 y d f => Sys2Proof.Machine.execWidf64 y d f s
  | .rdidx y d a => Sys2Proof.Machine.execRdidx y d a s
  | .wridx y d a => Sys2Proof.Machine.execWridx y d a s
  | .ld y d b k imm => Sys2Proof.Machine.execLd y d b k imm s
  | .st y d b k imm => Sys2Proof.Machine.execSt y d b k imm s
  | .ldv y d b k imm => Sys2Proof.Machine.execLdv y d b k imm s
  | .stv y d b k imm => Sys2Proof.Machine.execStv y d b k imm s
  | .lds y d b k imm => Sys2Proof.Machine.execLds y d b k imm s
  | .sts y d b k imm => Sys2Proof.Machine.execSts y d b k imm s
  | .atom y d b k imm => Sys2Proof.Machine.execAtom y d b k imm s
  | .atoms y d b k imm => Sys2Proof.Machine.execAtoms y d b k imm s
  | .fence y wack kind scope => Sys2Proof.Machine.execFence y wack kind scope s
  | .ldrb y d b k imm => Sys2Proof.Machine.execLdrb y d b k imm s
  | .mkrb y d a b => Sys2Proof.Machine.execMkrb y d a b s
  | .prfm y b k imm => Sys2Proof.Machine.execPrfm y b k imm s
  | .qclaim y d b => Sys2Proof.Machine.execQclaim y d b s
  | .qwrite y d b k imm => Sys2Proof.Machine.execQwrite y d b k imm s
  | .qpost y b imm => Sys2Proof.Machine.execQpost y b imm s
  | .awaitf y b imm => Sys2Proof.Machine.execAwaitf y b imm s
  | .awaitfWindow y b imm => Sys2Proof.Machine.execAwaitfWindow y b imm s
  | .relslot y b imm => Sys2Proof.Machine.execRelslot y b imm s
  | .relslotWindow y b imm => Sys2Proof.Machine.execRelslotWindow y b imm s
  | .seal y d a => Sys2Proof.Machine.execSeal y d a s
  | .sealRel y a => Sys2Proof.Machine.execSealRel y a s
  | .publish y b => Sys2Proof.Machine.execPublish y b s
  | .rdprom y d b imm => Sys2Proof.Machine.execRdprom y d b imm s
  | .rdpromWindow y d b imm => Sys2Proof.Machine.execRdpromWindow y d b imm s
  | .mainit y c t w => Sys2Proof.Machine.execMainit y c t w s
  | .mainitAuto y c t h => Sys2Proof.Machine.execMainitAuto y c t h s
  | .mma y t => Sys2Proof.Machine.execMma y t s
  | .mresolve y t => Sys2Proof.Machine.execMresolve y t s
  | .mdrain y t b k imm => Sys2Proof.Machine.execMdrain y t b k imm s
  | .mdrainRaw y t b k imm => Sys2Proof.Machine.execMdrainRaw y t b k imm s
  | .mdrainp y t u => Sys2Proof.Machine.execMdrainp y t u s
  | .msave y b t a => Sys2Proof.Machine.execMsave y b t a s
  | .msaveWindow y b t a => Sys2Proof.Machine.execMsaveWindow y b t a s
  | .mload y b t a c => Sys2Proof.Machine.execMload y b t a c s
  | .mloadWindow y b t a c => Sys2Proof.Machine.execMloadWindow y b t a c s
  | .mcmp y d t b => Sys2Proof.Machine.execMcmp y d t b s
  | .mdrop y t => Sys2Proof.Machine.execMdrop y t s
  | .mdropFa y n => Sys2Proof.Machine.execMdropFa y n s
  | .mdropFb y n => Sys2Proof.Machine.execMdropFb y n s
  | .mstat y d t => Sys2Proof.Machine.execMstat y d t s
  | .mwait y t n => Sys2Proof.Machine.execMwait y t n s
  | .sysr y d n => Sys2Proof.Machine.execSysr y d n s
  | .sysw y d n => Sys2Proof.Machine.execSysw y d n s
  | .ptw y a b => Sys2Proof.Machine.execPtw y a b s
  | .invlPage y a => Sys2Proof.Machine.execInvlPage y a s
  | .invlAll y a => Sys2Proof.Machine.execInvlAll y a s
  | .replace y a w => Sys2Proof.Machine.execReplace y a w s
  | .dcflush y b k imm => Sys2Proof.Machine.execDcflush y b k imm s
  | .unassignedOpcode w => Sys2Proof.Machine.execUnassignedOpcode w s
  | .longLatencyReturn a op => Sys2Proof.Machine.execLongLatencyReturn a op s
  | .trapDelivery a => Sys2Proof.Machine.execTrapDelivery a s
  | .adviseDelivery a => Sys2Proof.Machine.execAdviseDelivery a s
  | .sleepExpiry a => Sys2Proof.Machine.execSleepExpiry a s
  | .forkGrant cluster => Sys2Proof.Machine.execForkGrant cluster s
  | .acquireGrant gid tid => Sys2Proof.Machine.execAcquireGrant gid tid s
  | .launchPacket q => Sys2Proof.Machine.execLaunchPacket q s
  | .waitConditionCheck die n => Sys2Proof.Machine.execWaitConditionCheck die n s
  | .groupAdmit launch index => Sys2Proof.Machine.execGroupAdmit launch index s
  | .poolEvent => Sys2Proof.Machine.execPoolEvent s
  | .quantumExpiry vd => Sys2Proof.Machine.execQuantumExpiry vd s
  | .preemptRequest cluster vd quiesce => Sys2Proof.Machine.execPreemptRequest cluster vd quiesce s
  | .drainDeadline cluster => Sys2Proof.Machine.execDrainDeadline cluster s
  | .groupRestore gid cluster => Sys2Proof.Machine.execGroupRestore gid cluster s
  | .groupRestart gid cluster => Sys2Proof.Machine.execGroupRestart gid cluster s
  | .queueSlotTake q => Sys2Proof.Machine.execQueueSlotTake q s
  | .copy q n => Sys2Proof.Machine.execCopy q n s
  | .filla q n => Sys2Proof.Machine.execFilla q n s
  | .fillb q n => Sys2Proof.Machine.execFillb q n s
  | .fifoPanelPush q => Sys2Proof.Machine.execFifoPanelPush q s
  | .mcast q n => Sys2Proof.Machine.execMcast q n s
  | .ckpt q n => Sys2Proof.Machine.execCkpt q n s
  | .mark q => Sys2Proof.Machine.execMark q s
  | .packetComplete q => Sys2Proof.Machine.execPacketComplete q s
  | .matrixCommandPerform gid => Sys2Proof.Machine.execMatrixCommandPerform gid s
  | .peerArrival gid => Sys2Proof.Machine.execPeerArrival gid s
  | .lineRequest id => Sys2Proof.Machine.execLineRequest id s
  | .landingArrival id => Sys2Proof.Machine.execLandingArrival id s
  | .writeBack line evict => Sys2Proof.Machine.execWriteBack line evict s
  | .checkDelta n => Sys2Proof.Machine.execCheckDelta n s
  | .ferryStep region => Sys2Proof.Machine.execFerryStep region s
  | .homeHandoff line => Sys2Proof.Machine.execHomeHandoff line s
  | .scrubLine line => Sys2Proof.Machine.execScrubLine line s
  | .errorCounterHalving => Sys2Proof.Machine.execErrorCounterHalving s
  | .hbmRetryReissue id => Sys2Proof.Machine.execHbmRetryReissue id s
  | .alert channel recurs => Sys2Proof.Machine.execAlert channel recurs s
  | .unitFailure u => Sys2Proof.Machine.execUnitFailure u s
  | .checkRecompute stripe => Sys2Proof.Machine.execCheckRecompute stripe s
  | .clearSweep unit n => Sys2Proof.Machine.execClearSweep unit n s
  | .epochTick => Sys2Proof.Machine.execEpochTick s
  | .prqrAdvance vd value => Sys2Proof.Machine.execPrqrAdvance vd value s
  | .pageReply vd => Sys2Proof.Machine.execPageReply vd s
  | .fsrootWrite vd n value => Sys2Proof.Machine.execFsrootWrite vd n value s
  | .rangeUpdate vd cmd => Sys2Proof.Machine.execRangeUpdate vd cmd s
  | .rangeUpdateDone vd => Sys2Proof.Machine.execRangeUpdateDone vd s
  | .publishEntryUpdate vd cmd => Sys2Proof.Machine.execPublishEntryUpdate vd cmd s
  | .clqownWrite cluster value => Sys2Proof.Machine.execClqownWrite cluster value s
  | .clspbWrite cluster value => Sys2Proof.Machine.execClspbWrite cluster value s
  | .vdpolWrite vd value secure => Sys2Proof.Machine.execVdpolWrite vd value secure s
  | .vdl2Write vd value => Sys2Proof.Machine.execVdl2Write vd value s
  | .l2ShareWalkDone vd => Sys2Proof.Machine.execL2ShareWalkDone vd s
  | .tokenRefill vd us => Sys2Proof.Machine.execTokenRefill vd us s
  | .vdReset vd value => Sys2Proof.Machine.execVdReset vd value s
  | .vdResetDone vd => Sys2Proof.Machine.execVdResetDone vd s
  | .vdCreate vd p => Sys2Proof.Machine.execVdCreate vd p s
  | .quiesceRequest vd => Sys2Proof.Machine.execQuiesceRequest vd s
  | .quiesceRelease vd => Sys2Proof.Machine.execQuiesceRelease vd s
  | .keyInstall cmd secure => Sys2Proof.Machine.execKeyInstall cmd secure s
  | .keyDestroy cmd secure => Sys2Proof.Machine.execKeyDestroy cmd secure s
  | .retireBank secure => Sys2Proof.Machine.execRetireBank secure s
  | .retireChannel secure => Sys2Proof.Machine.execRetireChannel secure s
  | .retireStack secure => Sys2Proof.Machine.execRetireStack secure s
  | .repairRow secure => Sys2Proof.Machine.execRepairRow secure s
  | .clear secure => Sys2Proof.Machine.execClear secure s
  | .retireRegion secure => Sys2Proof.Machine.execRetireRegion secure s
  | .returnStack secure => Sys2Proof.Machine.execReturnStack secure s
  | .itent0Read => Sys2Proof.Machine.execItent0Read s
  | .attestation die o => Sys2Proof.Machine.execAttestation die o s
  | .attestationTimeout die => Sys2Proof.Machine.execAttestationTimeout die s
  | .dieReset value => Sys2Proof.Machine.execDieReset value s
  | .dieResetComplete die => Sys2Proof.Machine.execDieResetComplete die s
  | .dieSilence die => Sys2Proof.Machine.execDieSilence die s
  | .keyRollover link dir => Sys2Proof.Machine.execKeyRollover link dir s
  | .oldKeyRetire link dir => Sys2Proof.Machine.execOldKeyRetire link dir s
  | .flitAuthFailure link dir => Sys2Proof.Machine.execFlitAuthFailure link dir s
  | .wlogClear value secure => Sys2Proof.Machine.execWlogClear value secure s
  | .wlogstatRead secure => Sys2Proof.Machine.execWlogstatRead secure s
  | .powerSample watts => Sys2Proof.Machine.execPowerSample watts s
  | .thermalEvent die celsius => Sys2Proof.Machine.execThermalEvent die celsius s
  | .moor vd value => Sys2Proof.Machine.execMoor vd value s
  | .moorComplete vd => Sys2Proof.Machine.execMoorComplete vd s
  | .wake vd value => Sys2Proof.Machine.execWake vd value s
  | .wakeComplete vd => Sys2Proof.Machine.execWakeComplete vd s
  | .selfRefreshExit channel => Sys2Proof.Machine.execSelfRefreshExit channel s
  | .coldStart failing => Sys2Proof.Machine.execColdStart failing s
  | .warmStart failing completes => Sys2Proof.Machine.execWarmStart failing completes s
  | .companionAccess dest addr what => Sys2Proof.Machine.execCompanionAccess dest addr what s
  | .peerInboundAppend vd desc words => Sys2Proof.Machine.execPeerInboundAppend vd desc words s
  | .registerWrite r vd value secure => Sys2Proof.Machine.execRegisterWrite r vd value secure s
  | .promisePassed a => Sys2Proof.Machine.execPromisePassed a s
  | .writeAcknowledgement a => Sys2Proof.Machine.execWriteAcknowledgement a s

end Sys2Proof.Machine
end

