-- ==== Sys2Proof/Machine/Fetch.lean ====
section
/-!
DEFINITION. When a fragment may issue, and how its instruction is fetched (02 R43, R55; 03 R83, R85; 08 R187; 11 R233; 21
R388, R392), and the failures that hardware meets (03 R87; 05 R133, R134; 22 R396).
-/
namespace Sys2Proof.Machine

/-! ### When a fragment may issue -/

/-- A part of a serial split may run: it holds its entry; or the part that does has stopped at one of those parks, and no
part of a later number may run before it. An entry with one part runs it. -/
def Team.partRuns (t : Team) (f : Frag) : Bool :=
  f.holds ||
  (t.frags.all fun g => g.entry != f.entry || !g.holds || g.park.givesWay) &&
  t.frags.all fun g => g.entry != f.entry || decide (g.part ≤ f.part) || g.park.givesWay

/-- The fragment is not parked, or its park at a switch marker or for a retry is over: nothing is outstanding, and no trap
or advisory is due first (R83, R85, R360). -/
def State.parkOver (s : State) (h : Here) : Bool :=
  match h.frag.park with
  | .none => true
  | .marker | .drain =>
    (h.team.outsOf h.frag).isEmpty && (h.frag.replay.isSome || (h.team.faultsOf h.frag).isEmpty) &&
    (s.dueAdvice h.group h.team h.frag).isNone
  | _ => false

/-- The matrix unit's queue of 16 has room for a context's next instruction; in a handler the held ones do not count, since its
own are performed ahead of them (R187, R328). -/
def Here.unitRoom (h : Here) : Bool :=
  decide (h.group.munit.queue.length + (if h.frag.priv then 0 else h.group.munit.held.length) < 16)

/-- A drain has come to its deadline, past which its groups do not run (R375, R381). -/
def State.pastDeadline (s : State) (g : Group) : Bool :=
  (s.cluster g.cluster).preempts.any fun p => p.vd == g.vd && s.drainDue p && (s.outgoing g.cluster p).any fun x => x.gid == g.gid

/-- The line that a fragment fetches from waits at its home (R398, R402, R403, R436). -/
def State.fetchBlocked (s : State) (h : Here) : Bool := !s.linesFree h.group.vd [h.frag.pc.toNat]

/-- The fragment is ready (R55): the package runs, its group is resident and not at the end of a drain, its clusters are not
held, it is not parked, its serial split lets it run, a context's matrix queue has room (R187), and its
instruction's line does not wait. -/
def State.ready (s : State) (h : Here) : Bool :=
  decide (s.trust.phase = .running) && !s.trust.hold && decide (h.group.phase = .resident) && !s.pastDeadline h.group && s.parkOver h && h.team.partRuns h.frag &&
  (!h.team.isCore || h.unitRoom) && !s.fetchBlocked h

/-! ### Fetching -/

/-- The fragment at its instruction: its park is over, and a part of a serial split holds the entry, the other part giving
it up with its last-result file. -/
def Here.begin (h : Here) : Here :=
  let other (g : Frag) : Bool := g.entry == h.frag.entry && g.part != h.frag.part && g.holds
  let frags := h.team.frags.map fun g => if other g then { g with holds := false, x := [] } else g
  { h with
    team := { h.team with frags := frags }
    frag := { h.frag with park := .none, since := h.clock, holds := true, waits := false, x := if h.frag.holds then h.frag.x else [] } }

/-- What fetching gives. -/
inductive Fetched where
  /-- the instruction word -/
  | word (w : Word)
  /-- a trap raised by the instruction fetched, and the HPA of a request to be logged -/
  | trap (t : Trap) (log : Option (Nat × Access))
  | miss (gpa : Nat) (table : Bool)
  deriving DecidableEq, Repr

/-- Fetch the word at a virtual address, in cluster `c` (R203, R388). A line that cannot be read traps UE (log 22). -/
def State.fetch (s : State) (c vd pc : Nat) : Fetched :=
  match s.lineAnswer c vd pc pc .fetch with
  | .bad t log => .trap t log
  | .miss g t => .miss g t
  | .ok p =>
    let p := s.served vd p false
    match s.readSyndrome p with
    | some syn => .trap { cause := cUE, addr := pc, detail := syn, rank := rankUE } none
    | none => .word (BitVec.ofNat 32 (leValue (s.lineBytes p (pc % 128) 4)))

/-- What a fetch leaves: the translation kept, and the line healed. -/
def State.afterFetch (s : State) (c vd pc : Nat) : State :=
  let w := s.translate c vd pc .fetch
  let s := match w with
    | .ok p _ _ => s.heal (s.served vd p false)
    | _ => s
  (s.keepTlb c vd pc .fetch w).popChoice

/-- A trap raised in fetching, by the instruction fetched. -/
def State.fetchTrap (s : State) (h : Here) (t : Trap) (log : Option (Nat × Access)) : State :=
  (s.logDrop (h.group.slotOf h.team) h.group.vd log).put (h.raise h.frag.acting t)

/-- A fetch that misses the second stage: the fragment waits for the reply. -/
def State.fetchMiss (s : State) (h : Here) (gpa : Nat) (table : Bool) : State :=
  let a : AgentId := { gid := h.group.gid, tid := h.team.tid, ent := h.frag.entry, part := h.frag.part }
  (s.put { h with frag := { h.frag with park := .fetch gpa } }).pageMiss h.group.vd (dieOf h.group.cluster) (h.group.slotOf h.team)
    h.frag.pc.toNat gpa (if table then 1 else 2) false [.frag a]

/-- ILLOP of a word that is no instruction (R219, R354). -/
def illopTrap (w : Word) : Trap := { cause := cILLOP, detail := w }

/-! ### Failures -/

/-- A register word is found uncorrectable: it is poisoned, counted and advised (R87, R361). -/
def State.failWord (s : State) (gid tid reg lane : Nat) : State :=
  match (s.group? gid).bind fun g => (g.team? tid).map fun t => (g, t) with
  | none => s
  | some (g, t) =>
    if (if reg < 0xC0 then t.v.length ≤ reg else t.o.length ≤ reg - 0xC0) ∨ t.e0 ≤ lane then s
    else
      let r := t.reg reg
      let q := r.taint t.e0 (match r.val with | .g _ => false | _ => true) (BitVec.ofNat 1024 (2 ^ lane))
      (s.setGroup (g.setTeam ((t.setReg reg q.1).countPoison q.2))).adviseWords g.launch q.2

/-- Both copies of a v register's tag in the image of a saved group are found uncorrectable (R378). -/
def State.failTags (s : State) (gid tid reg : Nat) : State :=
  match s.group? gid with
  | none => s
  | some g =>
    if g.phase = .saved ∧ g.teams.any (fun t => t.tid == tid && decide (reg < t.v.length)) then
      s.setGroup { g with untagged := ((tid, reg) :: g.untagged).eraseDups }
    else s

/-- A line of a stripe of device memory fails its code (R396). -/
def State.failLine (s : State) (line : Nat) (fatal : Bool) : State :=
  { s with sv := { s.sv with weak := (line, fatal) :: s.sv.weak.filter fun w => w.1 != line } }

/-- A word of scratchpad is found uncorrectable (R134); its syndrome names the bank (R451). -/
def State.failScratch (s : State) (gid addr : Nat) : State :=
  match s.group? gid with
  | none => s
  | some g =>
    let a := addr / 4 * 4
    if g.spad ≤ a ∨ g.memPoison.any (fun p => p.1 == a) then s
    else s.setGroup { g with memPoison := (a, BitVec.ofNat 32 (2 ^ 30 + s.bankOf g a * 256)) :: g.memPoison }

end Sys2Proof.Machine
end

