-- ==== Sys2Proof/Machine/Turns.lean ====
section
/-!
DEFINITION. Turns: the issue of one instruction, an event, the passing of time; and the choice that the model makes when its
agenda names none (02 R55, R56; log 1).
-/
namespace Sys2Proof.Machine

/-! ### One turn -/

/-- An outcome, with what follows a next state. -/
def andThen (o : Host.Outcome State Fault Refusal) (k : State → State) : Host.Outcome State Fault Refusal :=
  match o with
  | .next s => .next (k s)
  | .fault f => .fault f
  | .refused r => .refused r

/-- The fragment that `cur` names runs a word: the instruction it holds, or ILLOP (R205, R219). A word
that decodes to nothing traps for every lane that acts, whatever the guard (log 128). -/
def State.runWord (s : State) (w : Word) : Host.Outcome State Fault Refusal :=
  match decode w with
  | .ok i => exec i s
  | .error _ => issue s fun h => h.raise h.frag.acting (illopTrap w)

/-- A ready fragment fetches its instruction and runs it. -/
def State.issueHere (s : State) (h : Here) : Host.Outcome State Fault Refusal :=
  let h := h.begin
  match s.fetch h.group.cluster h.group.vd h.frag.pc.toNat with
  | .word w => ((s.put h).afterFetch h.group.cluster h.group.vd h.frag.pc.toNat).runWord w
  | .trap t log => .next ((s.afterFetch h.group.cluster h.group.vd h.frag.pc.toNat).fetchTrap h t log)
  | .miss g t => .next ((s.afterFetch h.group.cluster h.group.vd h.frag.pc.toNat).fetchMiss h g t)

/-! ### Issue decisions (R55, R185) -/

/-- An agent that is ready: who chooses it (4 × cluster + quadrant, or 864 + cluster for the sequencer of its contexts), when it
last issued or became ready, its entry or its context's number, and the decisions that have passed it over. -/
structure Ready where
  id : AgentId
  chooser : Nat
  since : Nat
  tie : Nat
  passed : Nat
  deriving DecidableEq, Repr

/-- Who chooses a team's fragments or a context to issue. -/
def Group.chooser (g : Group) (t : Team) : Nat := if t.isCore then 864 + g.cluster else 4 * g.cluster + t.quadrant

/-- The agents that are ready. What one waits from is held with it: its last issue, or the end of a park, that of the switch marker or
of a drain too (Frag.wake, Team.endFrame; log 126). -/
def State.readyAgents (s : State) : List Ready :=
  s.groups.flatMap fun g => if g.phase = .resident then
    g.agents.filterMap fun a => match ({ s with cur := a } : State).here with
      | some h =>
        if s.ready h then
          some { id := a, chooser := h.group.chooser h.team, since := h.frag.since, tie := if h.team.isCore then h.team.quadrant else h.frag.entry,
                 passed := h.frag.passed }
        else none
      | none => none
  else []

/-- The ready agent that has waited longest; of equals, the lower entry or context number (R55, R185). -/
def longestWait : List Ready → Option Ready
  | [] => none
  | x :: l => match longestWait l with
    | some y => if y.since < x.since ∨ (y.since = x.since ∧ y.tie < x.tie) then some y else some x
    | none => some x

/-- Issue decisions of a quadrant within which a fragment that stays ready issues (R55). -/
def decisionBound : Nat := 64

/-- Decisions, the present one included, in which a ready fragment is still to issue. -/
def Ready.due (x : Ready) : Nat := decisionBound - x.passed

/-- Fragments that are ready can each issue in time from the next decision on: as many as are due within n decisions are no more
than n. -/
def keepsBound (l : List Ready) : Bool :=
  l.all fun x => decide ((l.filter fun y => decide (y.due ≤ x.due)).length < x.due)

/-- The ready fragments that are due first. -/
def firstDue (l : List Ready) : List Ready := l.filter fun x => l.all fun y => decide (x.due ≤ y.due)

/-- Who issues when an agent of an agenda is to. The sequencer of a cluster's contexts chooses the ready context that has waited
longest (R185). A quadrant chooses a fragment for one of its two slots; the clocks at which slots are free and at which fragments
have arrived at their targets are not of this machine, so an agenda may pass over fragments that have waited longer, as long as each
of them can still issue within the decisions that R55 allows; otherwise the one that is due first issues (log 99). -/
def State.chosen (s : State) (a : AgentId) : AgentId :=
  match s.agent? a with
  | none => a
  | some (g, t, _) =>
    let same := s.readyAgents.filter fun x => x.chooser == g.chooser t
    if !t.isCore && keepsBound (same.filter fun x => decide (x.id ≠ a)) then a
    else match longestWait (if t.isCore then same else firstDue same) with
      | some x => x.id
      | none => a

/-- An issue decision: each ready fragment of the quadrant but the chosen one has been passed over once more, and one that is not
ready has not been. -/
def State.passOver (s : State) (a : AgentId) : State :=
  match s.agent? a with
  | none => s
  | some (g, t, _) =>
    let ready := (s.readyAgents.filter fun x => x.chooser == g.chooser t).map (·.id)
    let step (g' : Group) (t' : Team) (f : Frag) : Frag :=
      let b : AgentId := { gid := g'.gid, tid := t'.tid, ent := f.entry, part := f.part }
      { f with passed := if b ≠ a ∧ ready.contains b then f.passed + 1 else 0 }
    let team (g' : Group) (t' : Team) : Team :=
      if g'.chooser t' = g.chooser t then { t' with frags := t'.frags.map (step g' t') } else t'
    { s with groups := s.groups.map fun g' =>
        if g'.cluster = g.cluster then { g' with teams := g'.teams.map (team g'), core := g'.core.map (team g') } else g' }

/-- The chosen agent issues, one clock on. -/
def State.issueChosen (s : State) (a : AgentId) : Host.Outcome State Fault Refusal :=
  match s.here with
  | none => .next s
  | some h =>
    if s.ready h then
      let s := s.passOver a
      match s.here with
      | some h => s.issueHere h
      | none => .next s
    else .next s

/-- An agent issues, if it is there and ready, or the one that is chosen in its place. -/
def State.issueBy (s : State) (a : AgentId) : Host.Outcome State Fault Refusal :=
  ({ s with cur := s.chosen a, clock := s.clock + 1 } : State).issueChosen (s.chosen a)

/-- The rows that are no instruction word: those that have no encoding. -/
def Instr.isEvent (i : Instr) : Bool := (encode i).isNone

/-- A region that lost lines is still moving, so a retirement is not complete (R406, R450). -/
def State.retiring (s : State) : Bool := s.sv.regions.any fun r => decide (r.state = .migrating) && !(s.spread r.spread).lost.isEmpty

/-- BUSY of a command register clears (R387, R407, R423). -/
def State.commandDone (s : State) (c : Command) : State :=
  match c with
  | .publish vd => s.setVd vd { s.vd vd with pubBusy := false }
  | .survival => if s.retiring then s else { s with sv := { s.sv with busy := false } }
  | .key => { s with trust := { s.trust with keyBusy := false } }

/-- A command whose BUSY is 1. -/
def State.busyCommand (s : State) : Option Command :=
  if s.sv.busy && !s.retiring then some .survival
  else if s.trust.keyBusy then some .key
  else ((List.range 64).find? fun d => (s.vd d).pubBusy).map .publish

/-- Take a turn. -/
def State.takeTurn (s : State) (t : Turn) : Host.Outcome State Fault Refusal :=
  match t with
  | .issue a => s.issueBy a
  | .event e => if Instr.isEvent e then exec e s else .next s
  | .tick n => .next { s with clock := s.clock + n }
  | .wordFailure gid tid reg lane => .next (s.failWord gid tid reg lane)
  | .tagsError gid tid reg => .next (s.failTags gid tid reg)
  | .lineError line fatal => .next (s.failLine line fatal)
  | .spadError gid addr => .next (s.failScratch gid addr)
  | .commandDone c => .next (s.commandDone c)
  | .readRegister r vd secure => .next (s.takeRead r vd secure)
  | .readCommand r vd secure => .next (s.takeReadCommand r vd secure)
  | .peerWrite vd gpa data flow => .next (s.doOutside vd (.peerWrite gpa data flow))
  | .retryHeld n => .next (s.retryHeld n)
  | .flits link dir n => .next (s.sendFlits link dir n)
  | .flitAcks link dir n => .next (s.ackFlits link dir n)
  | .tier2Error addr => .next (s.setPoison .tier2 (addr / 128 * 128) synTier2)

/-! ### The choice without an agenda (log 1) -/

/-- Events that are due to the fragments of a group. -/
def State.fragEvents (s : State) (g : Group) : List Instr :=
  g.allTeams.flatMap fun t => t.frags.flatMap fun f =>
    let a : AgentId := { gid := g.gid, tid := t.tid, ent := f.entry, part := f.part }
    (if (t.dueTrap f).isSome then [.trapDelivery a] else []) ++ (if (s.dueAdvice g t f).isSome then [.adviseDelivery a] else []) ++
    (if f.sleepDue s.clock then [.sleepExpiry a] else []) ++ (if (s.promiseDue t f).isSome then [.promisePassed a] else []) ++
    (if (s.dueAck f).isSome then [.writeAcknowledgement a] else [])

/-- Requests on their way, and at their homes. -/
def State.requestEvents (s : State) : List Instr :=
  ((s.reqs.filter s.mayLand).map fun r => .landingArrival r.id) ++ (s.reqs.filter s.reqReady).map fun r => .lineRequest r.id

/-- Returns of the operations of a group, the unit's commands, and growths. -/
def State.workEvents (s : State) (g : Group) : List Instr :=
  (if g.munit.queue.isEmpty then [] else [.matrixCommandPerform g.gid]) ++
  (if (s.sends g).isSome then [.peerArrival g.gid] else []) ++
  ((g.teams.filter fun t => t.frags.any fun f => decide (f.park = .acquire)).map fun t => .acquireGrant g.gid t.tid) ++
  g.allTeams.flatMap fun t => (t.outs.filter (s.mayReturn g.gid t)).map fun o =>
    .longLatencyReturn { gid := g.gid, tid := t.tid, ent := 0, part := 0 } o.id

/-- Events of a queue's server. -/
def Queue.events (x : Queue) : List Instr :=
  let q := x.id
  [.launchPacket q, .copy q 0, .filla q 0, .fillb q 0, .mcast q 0, .ckpt q 0, .mark q, .packetComplete q, .queueSlotTake q]

/-- Events of launches and of groups off their clusters. -/
def State.launchEvents (s : State) : List Instr :=
  (s.launches.flatMap fun l => match l.phase with
    | .waiting => (List.range ((s.waitList l.die).length)).map fun n => .waitConditionCheck l.die n
    | .ready => if l.toAdmit = 0 then [] else [.groupAdmit l.id (l.hdr.groupsOf - l.toAdmit)]
    | _ => []) ++
  s.groups.flatMap fun g => match g.phase with
    | .saved => (List.range 216).map fun c => .groupRestore g.gid c
    | .discarded => (List.range 216).map fun c => .groupRestart g.gid c
    | _ => []

/-- Events of pre-emption and of the pool. -/
def State.poolEvents (s : State) : List Instr :=
  let held := ((s.groups.filter fun g => g.phase.placed).map fun g => (g.cluster, g.vd)).eraseDups
  if s.launches.isEmpty then []
  else
    (held.map fun p => .preemptRequest p.1 p.2 false) ++ ((held.map (·.1)).eraseDups.map .drainDeadline) ++
    ((List.range 64).filter fun d => s.clusters.any fun c => c.grants.any (s.grantDue d)).map .quantumExpiry ++ [.poolEvent]

/-- Channels in self-refresh that a request, a fetch, or a unit that has called them out waits for (R436). -/
def State.awaitedChannels (s : State) : List Nat :=
  if s.sv.selfRefresh.isEmpty then []
  else
    let fetches := (s.groups.filter fun g => decide (g.phase = .resident)).flatMap fun g => g.agents.flatMap fun a =>
      match ({ s with cur := a } : State).here with
      | some h => s.reached h.group.vd [h.frag.pc.toNat]
      | none => []
    let places := (s.reqs.filter (·.landed)).map (fun r => s.served r.vd r.place false) ++ fetches
    (s.sv.called ++ (places.filter fun p => decide (p.space = .device) && s.asleep p.addr (lineIn p.addr)).map fun p => s.channel p.addr (lineIn p.addr)).filter
      s.sv.selfRefresh.contains

/-- Events by which work of the package that is under way ends. -/
def State.endEvents (s : State) : List Instr :=
  (s.awaitedChannels.map .selfRefreshExit) ++ ((s.sv.stale ++ s.sv.unreliable).map .checkRecompute) ++
  ((List.range (2 * s.sv.deltas.length)).map .checkDelta) ++
  (s.sv.regions.filterMap fun r => if r.state = .migrating then some (.ferryStep r.num) else none) ++
  (s.sv.handoffs.map fun h => .homeHandoff h.1) ++
  ((List.range 64).flatMap fun d =>
    let v := s.vd d
    (if v.rtBusy.isSome then [.rangeUpdateDone d] else []) ++ (if v.rpqr = v.rpqw then [] else [.pageReply d]) ++
    (if v.l2Busy then [.l2ShareWalkDone d] else []) ++ (if v.resetDone then [] else [.vdResetDone d]) ++
    (match v.moor with | .mooring => [.moorComplete d] | .waking => [.wakeComplete d] | _ => []) ++
    (if v.rate.toNat / 65536 = 0 then [] else [.tokenRefill d 1]))

/-- The first event of a list that changes the state. -/
def State.firstEvent (s : State) : List Instr → Option Instr
  | [] => none
  | e :: l => match exec e s with
    | .next s' => if s' = s then s.firstEvent l else some e
    | _ => s.firstEvent l

/-- The first event of lists of what may happen beside the issue of instructions, tried in order. -/
def State.firstOf (s : State) : List (State → List Instr) → Option Instr
  | [] => none
  | f :: l => match s.firstEvent (f s) with
    | some e => some e
    | none => s.firstOf l

/-- The sources of what may happen beside the issue of instructions. -/
def State.sources (s : State) : List (State → List Instr) :=
  let placed := s.groups.filter fun g => g.phase.placed
  [ fun s => placed.flatMap s.fragEvents, State.requestEvents, fun s => placed.flatMap s.workEvents,
    fun s => (((placed.map (·.cluster)).eraseDups).filter fun c => (s.nextFork c).isSome).map .forkGrant,
    fun s => s.queues.flatMap Queue.events, State.launchEvents, State.poolEvents, State.endEvents ]

/-- What may happen beside the issue of instructions. -/
def State.background (s : State) : Option Instr := s.firstOf s.sources

/-- The same, each list and the order of the lists turned by a number, so that no source waits for ever. -/
def State.backgroundFrom (s : State) (n : Nat) : Option Instr :=
  s.firstOf ((s.sources.rotateLeft n).map fun f s => let l := f s; l.rotateLeft (n / 8))

/-- Clocks until the next sleep is over, or one. -/
def State.idleClocks (s : State) : Nat :=
  let rests := s.groups.flatMap fun g => g.allTeams.flatMap fun t => t.frags.filterMap fun f => match f.park with
    | .sleep ts => some ((ts.map fun w => (w - BitVec.ofNat 32 s.clock).toNat).foldl max 0)
    | _ => none
  match rests with
  | [] => 1
  | r :: rs => max 1 (rs.foldl min r)

/-- Every so many turns one is fair (R55). -/
def fairTurn : Nat := 64

/-- The turn that is taken when the agenda is empty: the cold start; a held access from outside that can be performed, or the end of a command, when the turn is a fair one or no
fragment is ready; on a fair turn (each 64th) an event that is due, from a source that changes from one fair turn to the next;
else the longest waiting ready fragment; else an event; else time passes. -/
def State.choose (s : State) : Turn :=
  if s.trust.phase = .off then .event (.coldStart [])
  else
    let agent := (if s.trust.phase = .running then longestWait s.readyAgents else none).map fun x => Turn.issue x.id
    let done : Option Turn := if s.turns % fairTurn = 0 ∨ agent.isNone then (s.heldReady.map Turn.retryHeld).orElse fun _ => s.busyCommand.map Turn.commandDone else none
    let event := if s.turns % fairTurn = 0 then s.backgroundFrom (s.turns / fairTurn) else if agent.isSome then none else s.background
    match done, event, agent with
    | some t, _, _ => t
    | none, some e, _ => .event e
    | none, none, some t => t
    | none, none, none => .tick s.idleClocks

/-- The next turn: the epoch's advance when it is due; else the head of the agenda, or the model's own choice; and the state in
which it is taken. -/
def State.nextTurn (s : State) : Turn × State :=
  if s.epochDue then (.event .epochTick, s)
  else match s.agenda with
    | t :: rest => (t, { s with agenda := rest })
    | [] => (s.choose, { s with turns := s.turns + 1 })

/-! ### Placing a program (log 4) -/

/-- The lines of device memory of the placed program: its translation tables and its first instruction. -/
def placedAt : Nat := 0x10000
def placedTables : Memory := [(0x1000, 0x01), (0x1001, 0x20), (0x2000, 0x01), (0x2001, 0x30), (0x3000, 0x0F)]

/-- The header of the placed launch: one group of one team of one lane. -/
def placedHeader : Header :=
  { entry := placedAt, priority := 0, persistent := false, cohort := false, spcheck := false, splitmin := 1, width := List.replicate 6 0,
    ext := List.replicate 6 1, fv := 64, fg := 32, pv := 64, pg := 32, o := 16, cv := 64, co := 16, spad := 0, args := 0, wmask := 0,
    trapvec := 0, endva := 0, wtab := 0, waitAddr := 0, waitKind := 0, waitVal := 0, expect := 0, windows := [] }

/-- Virtual device 0, with the first 2 MiB of device memory mapped onto themselves. -/
def placedVd : VDev :=
  { VDev.reset with created := true, pool := true, fsroot0 := 0x1000#32, ranges := (BitVec.ofNat 128 (2 ^ 64 + 7 * 2 ^ 96)) :: List.replicate 47 0 }

/-- The queue that the placed launch came from. -/
def placedQueue : QueueId := { kind := .launchUnit, unit := 0, ctx := 0, vd := 0, desc := 0 }

def placedLaunch : Launch :=
  { id := 0, vd := 0, die := 0, hdr := placedHeader, phase := .ready, toAdmit := 0, trapvec := 0, endva := 0, trapvecLo := none,
    endvaLo := none, advmask := 0, advisories := [], traps := 0, status := 0, deciding := none, stage := .record, endMiss := none, ring := none, tag := 0,
    queue := placedQueue, order := 0, begunOn := [0] }

/-- The one-lane team, or the control-core context, that runs the placed instruction. -/
def placedTeam (tid : Nat) : Team :=
  { newTeam tid 0 0 0 1 64 (if tid = coreTid then 0 else 32) 16 1 with frags := [newFrag 0 1 placedAt 1 0] }

def placedGroup (core : Bool) : Group :=
  { gid := 0, launch := 0, vd := 0, f2 := 0, f3 := 0, f4 := 0, f5 := 0, cluster := 0, die0 := 0, phase := .resident,
    barriers := List.replicate 4 { arrived := 0, gen := 0 }, rdv := { arrived := 0, core := false, queue := false, gen := 0 }, windows := [],
    spcheck := false, splitmin := 1, base := 0, spad := 0, mem := [], memPoison := [], memTags := [],
    teams := if core then [] else [placedTeam 0], core := if core then some (placedTeam coreTid) else none, munit := MUnit.empty,
    queue := none, posted := [], forkCtr := 0, since := 0, restarted := false, refused := false, untagged := [], lazyRows := [], lazySpad := [] }

/-- Opcodes of the matrix unit, which a control-core context issues (R217). -/
def matrixWord (w : Nat) : Bool := decide (0x65 ≤ w / 2 ^ 24 % 128) && decide (w / 2 ^ 24 % 128 < 0x70)

/-- The agent that runs the placed instruction. -/
def placedAgent (core : Bool) : AgentId := { gid := 0, tid := if core then coreTid else 0, ent := 0, part := 0 }

/-- A started package that runs one launch, whose next instruction is a word; the tables' and the word's lines are stored
under key 0. -/
def State.placed (s : State) (w : Nat) : State :=
  let core := matrixWord w
  let p := s.started [] true
  { p with
    cur := placedAgent core, agenda := [.issue (placedAgent core)],
    mem := placedTables ++ Memory.write [] placedAt (leBytes 4 w),
    vds := p.vds.set 0 placedVd, launches := [placedLaunch], groups := [placedGroup core], nextLaunch := 1, nextGroup := 1,
    seqs := [(0, 1)],
    trust := { p.trust with keys := [(0, 0, List.replicate 16 0#32)], keyGen := 1,
                            sealed := [(0x1000, 0, 0), (0x2000, 0, 0), (0x3000, 0, 0), (placedAt, 0, 0)] } }

end Sys2Proof.Machine
end

