-- ==== Sys2Proof/Machine/Step.lean ====
section
/-!
DEFINITION. One step of the machine: the turn that the agenda, or else the model's own choice, says (log 1).
-/
namespace Sys2Proof.Machine

/-- One step: one instruction issues, one event happens, or time passes; and the launch units evaluate the conditions that
launches wait on, which the step may have met (R368). -/
def step (s : State) : Host.Outcome State Fault Refusal :=
  andThen (s.nextTurn.2.takeTurn s.nextTurn.1) State.wakeLaunches

/-- The package started, with a launch whose one fragment runs next, and the instruction word stored at its pc (log 4). -/
def State.withFetchWord (s : State) (nbits w : Nat) : State := s.placed (w % 2 ^ nbits)

end Sys2Proof.Machine
end

