-- ==== Sys2Proof/Safety.lean ====
section
/-!
DEFINITION. The terms in which claims are stated: a safe run, the invariants of State, and what an instruction leaves as it
was.
-/
namespace Sys2Proof.Machine

/-! ### Safe runs -/

/-- A state is safe when its step answers a next state: it neither faults nor is refused. -/
def State.safe (s : State) : Prop := ∃ t, step s = .next t

/-! ### Invariants -/

/-- The control-core context's and the teams' registers are as the counts in force say (R47, R59, R63, R69, R74, R118): as
many v and o registers as may be named, which are at most 192 and 16, four condition codes for each lane, sixteen b registers, and one lane on the control core
and at most 1,024 elsewhere; a frame keeps the condition codes of as many lanes (R355); both words of a last-result entry have one shape (R60). -/
def Team.shaped (t : Team) : Bool :=
  decide (t.vCount ≤ t.v.length ∧ t.vCount ≤ 192) && decide (t.oCount ≤ t.o.length ∧ t.oCount ≤ 16) && t.cc.length == t.e0 && t.b.length == 16 &&
  decide (t.e0 ≤ 1024) && (!t.isCore || t.e0 == 1) && (t.frames.all fun r => r.cc.length == t.e0) &&
  t.frags.all fun f => f.x.all fun e => match e.hi with
    | some hi => decide (hi.shape = e.lo.shape)
    | none => true

/-- The teams of a group, numbered below the control-core context, and that context, which alone is a core. -/
def Group.shaped (g : Group) : Bool :=
  (g.teams.all fun t => t.shaped && !t.isCore && decide (t.tid < coreTid)) &&
  match g.core with
  | some c => c.shaped && c.isCore && c.tid == coreTid
  | none => true

/-- All groups are shaped, and the counts of every launch are in their ranges: teams of a group and registers (R28, R366). -/
def State.shaped (s : State) : Bool :=
  (s.groups.all Group.shaped) && s.launches.all fun l =>
    decide (l.hdr.e 0 ≤ 1024 ∧ l.hdr.e 1 ≤ 64 ∧ l.hdr.fv ≤ 192 ∧ l.hdr.pv ≤ 192 ∧ l.hdr.cv ≤ 192 ∧ l.hdr.o ≤ 16 ∧ l.hdr.co ≤ 16)

/-- The images that the mode register may hold (R77). -/
def modeLegal (m : BitVec 24) : Bool := modeImageOk (m.truncate 23) && !m.getLsbD 23

/-- Every fragment, with what it will return to, has a legal mode (R77, R244, R351, R49). -/
def Team.legal (t : Team) : Bool :=
  (t.frags.all fun f => modeLegal f.mode && (match f.region with | some r => modeLegal r.mode | none => true)) &&
  t.frames.all fun r => modeLegal r.mode
def State.legal (s : State) : Bool := s.groups.all fun g => g.allTeams.all Team.legal

/-- Every memory is in canonical form: device memory, companion memory, host memory and the groups' scratchpads. -/
def State.canonical (s : State) : Bool :=
  s.mem.wf && s.companion.wf && s.host.wf && s.groups.all fun g => Memory.wf g.mem

/-! ### What an instruction leaves as it was -/

/-- The byte at an address of a space: device memory by HPA, companion memory, or a group's scratchpad. -/
def State.byteAt (s : State) : Space → Nat → Byte
  | .device, a => s.mem.get a
  | .tier2, a => s.companion.get a
  | .scratch gid, a => match s.group? gid with
    | some g => Memory.get g.mem a
    | none => 0#8

/-- Every byte of every memory reads as before. -/
def SameBytes (s t : State) : Prop := (∀ sp a, t.byteAt sp a = s.byteAt sp a) ∧ ∀ a, t.host.get a = s.host.get a

/-- From s to t only the issuing fragment and its team changed, from h to h': the rest of the package, every other group,
team and fragment and every byte of memory are as they were (the counter of free values, and the mark that a discarded group
has been restarted, may change). -/
structure Local (s t : State) (h h' : Here) : Prop where
  here : t.here = some h'
  rest : t = { s with groups := t.groups, fresh := t.fresh }
  group : h'.group = { h.group with teams := h'.group.teams, core := h'.group.core, restarted := h'.group.restarted }
  groups : ∀ gid, gid ≠ s.cur.gid → t.group? gid = s.group? gid
  teams : ∀ tid, tid ≠ s.cur.tid → h'.group.team? tid = h.group.team? tid
  frags : ∀ e p, ¬(e = s.cur.ent ∧ p = s.cur.part) → h'.team.frag? e p = h.team.frag? e p
  bytes : SameBytes s t

/-- The fragment parks at one of the instructions at which a serial split hands its entry over: another part may hold it now, and
the fragment's last-result file is then empty (R43, R61). -/
def Here.parkedAt (h : Here) (p : Park) : Here := Here.handOver { h with frag := { h.frag with park := p } }

/-- Nothing of the issuing team changed but v, o and condition-code registers and FPCTL, which is now fp, and nothing of the
fragment but what the instruction boundary changes, and the last-result file; the mark of a restart stays. -/
structure OnlyRegs (y : Bool) (fp : Word) (h h' : Here) : Prop where
  team : h'.team = { h.team with v := h'.team.v, o := h'.team.o, cc := h'.team.cc, frags := h'.team.frags, fpctl := fp }
  frag : h'.frag = { h.frag.finish y with x := h'.frag.x }
  restarted : h'.group.restarted = h.group.restarted

/-- The lanes of act hold f in the register or pair r, the team's other lanes and its other registers hold what they held (a
write of x0 writes none of them), and the result is the newest entry of the last-result file, which the switch marker then
empties (R58, R60, R61, R64). A control-core context has one lane alone. -/
structure Wrote (y : Bool) (r words : Nat) (act : Mask) (f : Nat → Nat) (h h' : Here) : Prop where
  lanes : r < 0xD0 → ∀ k < h.team.e0, act.has k → ∀ w < words,
    h'.read (r + w) k = BitVec.ofNat 32 (f k / 2 ^ (32 * w)) ∧ (h'.team.reg (r + w)).poisoned k = false
  kept : r < 0xD0 → ∀ k < h.team.e0, !act.has k → h.team.live.has k → h.team.isCore = false ∨ act = 0#1024 → ∀ w < words,
    h'.read (r + w) k = h.read (r + w) k ∧ (h'.team.reg (r + w)).poisoned k = (h.team.reg (r + w)).poisoned k
  others : ∀ q < 0xD0, q < r ∨ r + words ≤ q ∨ act = 0#1024 → h'.team.reg q = h.team.reg q
  last : y = false → act ≠ 0#1024 → ∃ e : XEntry, h'.frag.x = (e :: h.frag.x).take 4 ∧ (e.hi.isSome ↔ words = 2) ∧
    ∀ k < h.team.e0, act.has k → e.lo.lane k = BitVec.ofNat 32 (f k) ∧
      ∀ hi, e.hi = some hi → hi.lane k = BitVec.ofNat 32 (f k / 2 ^ 32)
  lastKept : y = false → act = 0#1024 → h'.frag.x = h.frag.x
  marker : y = true → h'.frag.x = []

/-- The lanes of act hold f in condition code c, if there is one to write; every other condition code is as it was (R74, R80). -/
structure WroteFlagsOf (act : Mask) (cc : Option Nat) (f : Nat → Flags) (h h' : Here) : Prop where
  lanes : ∀ c, cc = some c → ∀ k < h.team.e0, act.has k → h'.team.ccOf c k = f k
  kept : ∀ c < 4, ∀ k, cc ≠ some c ∨ h.team.e0 ≤ k ∨ !act.has k → h'.team.ccOf c k = h.team.ccOf c k

/-- The same for the active lanes. -/
abbrev WroteFlags (cc : Option Nat) (f : Nat → Flags) (h h' : Here) : Prop := WroteFlagsOf h.active cc f h h'

/-- No v or o register changed, nor, but for the switch marker, the last-result file. -/
structure NoWrite (y : Bool) (h h' : Here) : Prop where
  v : h'.team.v = h.team.v
  o : h'.team.o = h.team.o
  x : h'.frag.x = if y then [] else h.frag.x

/-! ### Instructions of one shape -/

/-- An instruction that acts in the acting format and defines flags: its destination, register operands, whether a float TYPE is
illegal, how shape_of sees it, and each lane's result (R252 to R255). -/
structure AluForm where
  y : Bool
  d : BitVec 8
  reads : List (BitVec 8)
  arith : Bool
  op : ShapeOp
  res : Here → Nat → IntRes

/-- The integer instructions of 12 with flags, and fixed latency (R258, R259, R261 to R265). -/
def aluForm : Instr → Option AluForm
  | .addi y d imm => some ⟨y, d, [d], true, .other, fun h t => addiRes h.intFmt h.sat (h.pat d t) imm.toInt⟩
  | .iadd y d a b => some ⟨y, d, [a, b], true, .addSub, fun h t => addRes h.intFmt h.sat (h.pat a t) (h.pat b t)⟩
  | .isub y d a b => some ⟨y, d, [a, b], true, .addSub, fun h t => subRes h.intFmt h.sat (h.pat a t) (h.pat b t)⟩
  | .imul y d a b => some ⟨y, d, [a, b], true, .mul, fun h t => mulRes h.intFmt h.sat (h.pat a t) (h.pat b t)⟩
  | .imulh y d a b => some ⟨y, d, [a, b], true, .other, fun h t => mulhRes h.intFmt (h.pat a t) (h.pat b t)⟩
  | .imad y d a b => some ⟨y, d, [d, a, b], true, .other, fun h t => madRes h.intFmt h.sat (h.pat d t) (h.pat a t) (h.pat b t)⟩
  | .imin y d a b => some ⟨y, d, [a, b], true, .other, fun h t => minRes h.intFmt (h.pat a t) (h.pat b t)⟩
  | .imax y d a b => some ⟨y, d, [a, b], true, .other, fun h t => maxRes h.intFmt (h.pat a t) (h.pat b t)⟩
  | .iabs y d a => some ⟨y, d, [a], true, .other, fun h t => absRes h.intFmt h.sat (h.pat a t)⟩
  | .and y d a b => some ⟨y, d, [a, b], false, .other, fun h t => bitRes (h.pat a t &&& h.pat b t)⟩
  | .or y d a b => some ⟨y, d, [a, b], false, .other, fun h t => bitRes (h.pat a t ||| h.pat b t)⟩
  | .xor y d a b => some ⟨y, d, [a, b], false, .other, fun h t => bitRes (h.pat a t ^^^ h.pat b t)⟩
  | .shl y d a b => some ⟨y, d, [a, b], false, .shl, fun h t => shlRes h.intFmt h.sat (h.pat a t) (h.low b t)⟩
  | .shr y d a b => some ⟨y, d, [a, b], false, .other, fun h t => shrRes h.intFmt (h.pat a t) (h.low b t)⟩
  | .sar y d a b => some ⟨y, d, [a, b], false, .other, fun h t => sarRes h.intFmt (h.pat a t) (h.low b t)⟩
  | .bfe y d a b => some ⟨y, d, [a, b], false, .other, fun h t => bfeRes h.intFmt (h.pat a t) (h.low b t)⟩
  | .bfi y d a b => some ⟨y, d, [d, a, b], false, .other, fun h t => bfiRes h.intFmt (h.pat d t) (h.pat a t) (h.low b t)⟩
  | .popc y d a => some ⟨y, d, [a], false, .other, fun h t => bitRes (popcount h.intFmt.n (h.pat a t))⟩
  | .clz y d a => some ⟨y, d, [a], false, .other, fun h t => bitRes (clzOf h.intFmt.n (h.pat a t))⟩
  | .brev y d a => some ⟨y, d, [a], false, .other, fun h t => bitRes (brevOf h.intFmt.n (h.pat a t))⟩
  | _ => none

/-- What such an instruction names, for the checks of R88. -/
def AluForm.uses (F : AluForm) (i : Instr) (h : Here) : Uses := h.intUses (wordOf i) (F.arith && !h.format.isInt) true F.d F.reads F.op

/-- An instruction of fixed latency that writes a result and no flag: what it names, its destination, its lanes and their
results. -/
structure MoveForm where
  y : Bool
  d : Nat
  words : Nat
  act : Mask
  uses : Uses
  val : Nat → Nat

/-- MOVI, MOVIH, MOV and SEL (R257, R266), GETMODE (R245), SHAPE (R297), WIDF (R298), FCLASS (R283), and RFAL of a uniform source
(R290), at the issuing fragment. -/
def moveForm (h : Here) (i : Instr) : Option MoveForm :=
  match i with
  | .movi y d imm => some ⟨y, d.toNat, 1, h.active,
      { word := wordOf i, writes := [(d.toNat, 1)], act := h.active, grow := growOf (h.shapeOf .other h.active []) d.toNat 1 },
      fun _ => (imm.signExtend 32).toNat⟩
  | .movih y d imm => some ⟨y, d.toNat, 1, h.active,
      { word := wordOf i, writes := [(d.toNat, 1)], reads := [(d.toNat, 1)], act := h.active,
        grow := growOf (h.shapeOf .other h.active [h.shapeWord d.toNat]) d.toNat 1 },
      fun t => (h.read d.toNat t).toNat % 65536 + 65536 * imm.toNat⟩
  | .mov y d a => some ⟨y, d.toNat, h.words, h.active, h.intUses (wordOf i) false false d [a] .mov, fun t => h.readN a.toNat h.words t⟩
  | .sel y d a b => some ⟨y, d.toNat, h.words, h.active,
      { word := wordOf i, illop := modeCcw h.frag.mode == 0, writes := [(d.toNat, h.words)],
        reads := [(a.toNat, h.words), (b.toNat, h.words)], ccRead := h.ccw.toList, act := h.active,
        grow := growOf (if h.team.isCore then .u else .g) d.toNat h.words },
      fun t => h.readN (if (h.team.ccOf (modeCcw h.frag.mode - 1) t).z then b.toNat else a.toNat) h.words t⟩
  | .getmode y d => some ⟨y, d.toNat, 1, h.frag.acting,
      { word := wordOf i, writes := [(d.toNat, 1)], guard := false, act := h.frag.acting,
        grow := growOf (if h.team.isCore ∨ h.frag.acting = h.team.live then .u else .g) d.toNat 1 },
      fun _ => h.frag.mode.toNat⟩
  | .shape y d a => some ⟨y, d.toNat, 1, h.active,
      { word := wordOf i, writes := [(d.toNat, 1)], reads := [(a.toNat, 1)], act := h.active, grow := growOf h.oneShape d.toNat 1,
        unlocked := [a.toNat], poison := some none },
      fun _ => (h.shapeWord a.toNat).code⟩
  | .widf y d f => some ⟨y, d.toNat, 1, h.active,
      { word := wordOf i, illop := decide (5 < f.toNat), writes := [(d.toNat, 1)], act := h.active,
        grow := growOf (h.widfShape f.toNat false) d.toNat 1 },
      fun t => h.workField f.toNat t % 2 ^ 32⟩
  | .widf64 y d f => some ⟨y, d.toNat, 2, h.active,
      { word := wordOf i, illop := decide (5 < f.toNat), writes := [(d.toNat, 2)], act := h.active,
        grow := growOf (h.widfShape f.toNat true) d.toNat 2 },
      fun t => h.workField f.toNat t⟩
  | .fclass y d a => some ⟨y, d.toNat, h.words, h.active, h.fpUses (wordOf i) false false d [a], fun t => 2 ^ classOf h.format (h.fpat a t)⟩
  | .rfal y d a => if h.shapeN a.toNat h.words = .u then
      some ⟨y, d.toNat, h.words, h.active, h.laneUses (wordOf i) false false false d [a] h.oneShape,
        fun _ => h.readN a.toNat h.words (h.active.lowest h.team.e0)⟩
      else none
  | _ => none

/-- A float instruction of fixed latency: its destination, register operands, what else is reserved, and each lane's result with
the flags it raises (R272 to R275). -/
structure FloatForm where
  y : Bool
  d : BitVec 8
  reads : List (BitVec 8)
  illop : Bool
  res : Here → Nat → Nat × FFlags

/-- FADD, FSUB, FMUL, FFMA, FMIN, FMAX, FSGN and FRND (R277, R280, R281, R284). -/
def floatForm : Instr → Option FloatForm
  | .fadd y d a b => some ⟨y, d, [a, b], false, fun h t => h.roundF (addNum h.rnd (h.fnum a t) (h.fnum b t))⟩
  | .fsub y d a b => some ⟨y, d, [a, b], false, fun h t => h.roundF (addNum h.rnd (h.fnum a t) (h.fnum b t).negate)⟩
  | .fmul y d a b => some ⟨y, d, [a, b], false, fun h t => h.roundF (mulNum (h.fnum a t) (h.fnum b t))⟩
  | .ffma y d a b => some ⟨y, d, [d, a, b], false, fun h t => h.roundF (fmaNum h.rnd (h.fnum a t) (h.fnum b t) (h.fnum d t))⟩
  | .fmin y d a b => some ⟨y, d, [a, b], false, fun h t => minMax h.format h.ftz true (h.fpat a t) (h.fpat b t)⟩
  | .fmax y d a b => some ⟨y, d, [a, b], false, fun h t => minMax h.format h.ftz false (h.fpat a t) (h.fpat b t)⟩
  | .fsgn y d a b => some ⟨y, d, [a, b], false, fun h t => fsgnPat h.format h.ftz (h.fpat a t) (h.fpat b t)⟩
  | .frnd y d a k => some ⟨y, d, [a], decide (5 < k.toNat), fun h t =>
      frndPat h.format (if k = 0#8 then h.rnd else k.toNat) h.ftz (h.fpat a t)⟩
  | _ => none

/-- No active lane's flags are enabled in FPCTL, so none traps FPEXC (R79, R80). -/
def Here.untrapped (h : Here) (fl : Nat → FFlags) : Prop := ∀ k < h.team.e0, h.active.has k → enabledFlags h.team.fpctl (fl k) = 0#5

/-- The active lanes that raise a flag which FPCTL enables (R80). -/
def Here.raisers (h : Here) (fl : Nat → FFlags) : Mask :=
  Mask.ofPred h.team.e0 fun k => h.active.has k && (enabledFlags h.team.fpctl (fl k) != 0#5)

/-- The fault record's detail of FPEXC: the enabled flags that those lanes raise, at their places in FPCTL (R79, R80, R354). -/
def Here.raisedDetail (h : Here) (fl : Nat → FFlags) : Word :=
  BitVec.ofNat 32 ((allFlags ((h.raisers fl).lanes h.team.e0) fun k => enabledFlags h.team.fpctl (fl k)).toNat * 16)

/-- FPCTL with the flags that the active lanes raise together ORed into its bits [8:4] (R80). -/
def Here.raisedFp (h : Here) (fl : Nat → FFlags) : Word := h.team.fpctl ||| BitVec.ofNat 32 ((allFlags (h.active.lanes h.team.e0) fl).toNat * 16)

/-- The lanes that raise an enabled flag trap FPEXC: the fragment parks with that trap pending for them, at the instruction, every flag
raised is in FPCTL, and nothing of the team but v, o and condition-code registers has changed otherwise (R80). -/
structure TrapsFpexc (fl : Nat → FFlags) (h h' : Here) : Prop where
  fault : ∃ p ∈ h'.team.faults, p.cause = 0x21 ∧ p.lanes = h.raisers fl ∧ p.pc = h.frag.pc ∧ p.detail = h.raisedDetail fl
  frag : h'.frag = { h.frag.finish false with park := .trap, x := h'.frag.x }
  team : h'.team = { h.team with v := h'.team.v, o := h'.team.o, cc := h'.team.cc, frags := h'.team.frags, faults := h'.team.faults,
                                 nextOp := h.team.nextOp + 1, fpctl := h.raisedFp fl }

/-- A long-latency instruction whose result is known at issue: what it names, each lane's result (in as many words as its
destination has) and flags, and the float flags it raises. -/
structure LongForm where
  y : Bool
  uses : Uses
  val : Nat → Nat
  flags : Nat → Flags
  fp : Nat → FFlags

/-- A special function (R278, R279): its register operands and each lane's result. -/
def Here.special (h : Here) (i : Instr) (y : Bool) (d : BitVec 8) (reads : List (BitVec 8)) (f : Nat → Nat × FFlags) : LongForm :=
  ⟨y, { h.fpUses (wordOf i) false true d reads with long := true }, fun t => (f t).1, fun t => floatFlags h.format (f t).1, fun t => (f t).2⟩

/-- An integer division (R260) whose lanes divide by no zero, or with IDZQ set: a lane that divides by zero gives 0 with V. -/
def Here.division (h : Here) (i : Instr) (y : Bool) (d a b : BitVec 8) (f : IntFmt → Nat → Nat → IntRes) : LongForm :=
  let res (t : Nat) : IntRes := if h.pat b t = 0 then { pat := 0, c := false, v := true } else f h.intFmt (h.pat a t) (h.pat b t)
  ⟨y, { h.intUses (wordOf i) (!h.format.isInt) true d [a, b] .other with long := true },
    fun t => h.intFmt.place (res t).pat, fun t => (res t).flags h.intFmt, fun _ => 0#5⟩

/-- A collective (R291, R292) over the patterns that lane t combines. -/
def Here.combining (h : Here) (i : Instr) (y : Bool) (d a : BitVec 8) (k : Nat) (sh : Shape) (of_ : Nat → List Nat) : LongForm :=
  ⟨y, h.laneUses (wordOf i) (decide (5 < k)) true true d [a] sh,
    fun t => if h.format.isInt then h.intFmt.place (redInt h.intFmt h.sat k (of_ t)).pat else (h.redFloat k (of_ t)).1,
    fun t => if h.format.isInt then (redInt h.intFmt h.sat k (of_ t)).flags h.intFmt
      else if k ≤ 2 then floatFlags h.format (h.redFloat k (of_ t)).1
      else { n := h.format.signBit (h.redFloat k (of_ t)).1, z := decide ((h.redFloat k (of_ t)).1 = 0), c := false, v := false },
    fun t => if h.format.isInt then 0#5 else (h.redFloat k (of_ t)).2⟩

/-- IDIV and IREM (R260), the special functions (R278, R279), RFAL of a source that is not uniform, BALLOT and VOTE (R290), SHFL
(R293), REDU and SCAN (R291, R292), at the issuing fragment. -/
def longForm (h : Here) (i : Instr) : Option LongForm :=
  match i with
  | .idiv y d a b => some (h.division i y d a b (divRes h.sat))
  | .irem y d a b => some (h.division i y d a b remRes)
  | .frcp y d a => some (h.special i y d [a] fun t => fdivRes h.format h.rnd h.ftz (.fin false 1 0) (h.fnum a t))
  | .frsq y d a => some (h.special i y d [a] fun t => rootRes h.format h.rnd h.ftz true (h.fnum a t))
  | .fsqrt y d a => some (h.special i y d [a] fun t => rootRes h.format h.rnd h.ftz false (h.fnum a t))
  | .fdiv y d a b => some (h.special i y d [a, b] fun t => fdivRes h.format h.rnd h.ftz (h.fnum a t) (h.fnum b t))
  | .fexp2 y d a => some (h.special i y d [a] fun t => transRes .exp2 h.format h.rnd h.ftz (h.fpat a t) (h.fnum a t))
  | .flog2 y d a => some (h.special i y d [a] fun t => transRes .log2 h.format h.rnd h.ftz (h.fpat a t) (h.fnum a t))
  | .fsin y d a => some (h.special i y d [a] fun t => transRes .sin h.format h.rnd h.ftz (h.fpat a t) (h.fnum a t))
  | .fcos y d a => some (h.special i y d [a] fun t => transRes .cos h.format h.rnd h.ftz (h.fpat a t) (h.fnum a t))
  | .rfal y d a => if h.shapeN a.toNat h.words = .u then none
      else some ⟨y, h.laneUses (wordOf i) false false true d [a] h.oneShape,
        fun _ => h.readN a.toNat h.words (h.active.lowest h.team.e0), fun _ => Flags.zero, fun _ => 0#5⟩
  | .ballot y d a => some ⟨y, h.laneUses (wordOf i) false false true d [a] h.laneShape,
      fun t => ((Mask.ofPred h.team.e0 fun k => h.active.has k && h.tpat a k != 0).word (t / 32)).toNat, fun _ => Flags.zero, fun _ => 0#5⟩
  | .vote y d a k => some ⟨y, h.laneUses (wordOf i) (decide (2 < k.toNat)) false true d [a] h.oneShape,
      fun _ =>
        let ps := h.lanes.map (h.tpat a)
        if (if k = 0#8 then ps.all (· != 0) else if k = 1#8 then ps.any (· != 0) else ps.all (· == ps.headD 0)) then 1 else 0,
      fun _ => Flags.zero, fun _ => 0#5⟩
  | .shfl y d a b => some ⟨y,
      { h.laneUses (wordOf i) false false true d [a, b] (h.shapeOf .other h.active [h.shapeN a.toNat h.words]) with
        poison := some (h.shflPoison a b) },
      fun t => h.readN a.toNat h.words (if (h.read b.toNat t).toNat < h.team.e0 then (h.read b.toNat t).toNat else t),
      fun _ => Flags.zero, fun _ => 0#5⟩
  | .redu y d a k => some (h.combining i y d a k.toNat h.oneShape fun _ => h.lanes.map (h.tpat a))
  | .scan y d a e k => some (h.combining i y d a k.toNat h.laneShape fun t =>
      (h.lanes.filter fun j => decide (j < t) || (decide (e = 0#1) && decide (j = t))).map (h.tpat a))
  | _ => none

/-- An instruction has put operation o in flight for its fragment, and changed nothing else: the registers it will write are
pending until it returns (R83, R84). -/
structure Started (y : Bool) (u : Uses) (o : Out) (h h' : Here) : Prop where
  team : h'.team = { h.team with nextOp := h.team.nextOp + 1, outs := h.team.outs ++ [o], frags := h'.team.frags }
  frag : h'.frag = h.frag.finish y
  restarted : h'.group.restarted = h.group.restarted
  id : o.id = h.team.nextOp
  place : o.pc = h.frag.pc ∧ o.lanes = u.act
  dst : o.dst = u.writes.flatMap fieldWords
  cc : o.cc = u.ccWrite
  pending : ∀ r, (r ∈ o.dst ∨ ∃ c, o.cc = some c ∧ r = 0x200 + c) → r ∈ h'.team.pending
  locked : ∀ r ∈ u.reads.flatMap fieldWords, r ∈ h'.team.locked

/-! ### Instructions that reach memory -/

/-- The address of an element (R121, R122, R82). -/
def Buf.place (b : Buf) (e : Nat) : Nat := b.base + (if b.window then e * b.stride else swz b.swiz (e * b.stride) b.log2)

/-- A memory instruction: the issuing fragment once the regions that the instruction ends have ended; what it names; the buffer; the
accesses' kind, action, scope and race check; a record that forbids it; the lanes that are performed, their elements, and the
bytes that go with each. -/
structure AccessForm where
  y : Bool
  base : Here
  uses : Uses
  buf : Buf
  kind : Access
  action : Action
  scope : Nat
  check : Option RaceCheck
  forbidden : Bool
  lanes : List Nat
  elems : Nat → List Nat
  data : Nat → Nat → List Byte

/-- LD, LDV and LDS: the words that a lane's elements take are the destination. -/
def Here.loadForm (h : Here) (i : Instr) (y : Bool) (d : BitVec 8) (b : Buf) (k : Nat) (idx : BitVec 8) (vec illop : Bool) : AccessForm :=
  let words := if vec then 4 else elemWords b.log2
  let uni := h.oneShape == .u && h.shapeWord idx.toNat == .u
  { y := y, base := h, buf := b, kind := .read, action := .read (h.signed && decide (b.log2 < 2)), scope := 0, forbidden := false
    uses := { word := wordOf i, illop := illop || (vec && decide (2 < b.log2)), writes := [(d.toNat, words)], reads := [(idx.toNat, 1)],
              long := true, brec := if b.window then none else some b.num, window := if b.window then some b.num else none,
              act := h.active, grow := if uni || h.team.isCore then [] else growOf .g d.toNat words }
    check := if b.window then h.spadCheck else h.recordCheck b.num
    lanes := if uni then [h.active.lowest h.team.e0] else h.lanes
    elems := h.elems idx k vec, data := fun _ _ => [] }

/-- ST, STV and STS: register D, or D + q for element q of STV, supplies the bytes. -/
def Here.storeForm (h : Here) (i : Instr) (y : Bool) (d : BitVec 8) (b : Buf) (k : Nat) (idx : BitVec 8) (vec illop : Bool) : AccessForm :=
  let words := if vec then 4 else elemWords b.log2
  let uni := h.oneShape == .u && h.shapeWord idx.toNat == .u &&
    (List.range words).all fun q => h.shapeWord (if d.toNat < 0xD0 then d.toNat + q else d.toNat) == .u
  { y := y, base := h, buf := b, kind := .write, action := .write, scope := 0
    forbidden := !b.window && (recRo (h.bufRecord b.num) || recPub (h.bufRecord b.num))
    uses := { word := wordOf i, illop := illop || (vec && decide (2 < b.log2)), reads := [(d.toNat, words), (idx.toNat, 1)],
              brec := if b.window then none else some b.num, window := if b.window then some b.num else none, act := h.active }
    check := if b.window then h.spadCheck else h.recordCheck b.num
    lanes := if uni then [h.active.lowest h.team.e0] else h.lanes
    elems := h.elems idx k vec, data := fun t q => h.storeBytes d b.log2 q t }

/-- ATOM and ATOMS: D is the operand and then holds the old value and the tag; they end both regions of the fragment. -/
def Here.atomicForm (h : Here) (i : Instr) (y : Bool) (d : BitVec 8) (b : Buf) (k : Nat) (idx : BitVec 8) (illop : Bool) : AccessForm :=
  let sh := if 1 < h.lanes.length then Shape.g
    else h.shapeOf .other h.active [h.shapeWord d.toNat, h.shapeWord (d.toNat + 1), h.shapeWord idx.toNat]
  let g := h.endRegions
  { y := y, base := g, buf := b, kind := .write, action := .atomic k h.type h.rnd h.ftz, scope := modeScope h.frag.mode
    forbidden := !b.window && (recRo (g.bufRecord b.num) || recPub (g.bufRecord b.num))
    uses := { word := wordOf i, illop := illop || b.log2 != 2 || !atomType k h.type, writes := [(d.toNat, 2)],
              reads := [(d.toNat, if k = 7 then 2 else 1), (idx.toNat, 1)], long := true,
              brec := if b.window then none else some b.num, window := if b.window then some b.num else none, act := h.active,
              grow := if h.team.isCore then [] else growOf sh d.toNat 2 }
    check := if b.window then g.spadCheck else g.recordCheck b.num
    lanes := g.lanes, elems := g.elems idx 0 false
    data := fun t _ => leBytes 4 (g.read d.toNat t).toNat ++ leBytes 4 (g.read (d.toNat + 1) t).toNat }

/-- The memory instructions through a buffer record (R305 to R307, R310) and through a window (R305, R307). -/
def accessForm (h : Here) (i : Instr) : Option AccessForm :=
  match i with
  | .ld y d b k idx => some (h.loadForm i y d (h.recordBuf b.toNat) k.toNat idx false false)
  | .ldv y d b k idx => some (h.loadForm i y d (h.recordBuf b.toNat) k.toNat idx true false)
  | .st y d b k idx => some (h.storeForm i y d (h.recordBuf b.toNat) k.toNat idx false false)
  | .stv y d b k idx => some (h.storeForm i y d (h.recordBuf b.toNat) k.toNat idx true false)
  | .atom y d b k idx => some (h.atomicForm i y d (h.recordBuf b.toNat) k.toNat idx false)
  | .ldrb y d b k idx => some
      { y := y, base := h, buf := h.recordBuf b.toNat, kind := .read, action := .readRecord, scope := 0, forbidden := false
        uses := { word := wordOf i, illop := (h.recordBuf b.toNat).log2 != 4, reads := [(idx.toNat, 1)], long := true, brec := some b.toNat,
                  bdst := some d.toNat, act := h.active, poison := h.oncePoison [(idx.toNat, 1)] }
        check := h.recordCheck b.toNat, lanes := [h.active.lowest h.team.e0], elems := h.elems idx k.toNat false, data := fun _ _ => [] }
  | .lds y d b k idx => some (h.loadForm i y d (h.windowBuf b.toNat) k.toNat idx false h.team.isCore)
  | .sts y d b k idx => some (h.storeForm i y d (h.windowBuf b.toNat) k.toNat idx false h.team.isCore)
  | .atoms y d b k idx => some (h.atomicForm i y d (h.windowBuf b.toNat) k.toNat idx h.team.isCore)
  | _ => none

/-- Every element of the lanes is in range, at an aligned address below 2^48, and the record allows the access (R124, 1 to 3). -/
def AccessForm.good (F : AccessForm) : Prop :=
  F.forbidden = false ∧ ∀ t ∈ F.lanes, ∀ e ∈ F.elems t, e < F.buf.extent ∧ F.buf.place e < 2 ^ 48 ∧ F.buf.place e % 2 ^ F.buf.log2 = 0

/-- A lane whose elements are not good stops the instruction with nothing performed (R124, 1 to 3): of BOUNDS, ALIGN and PERM the first that
holds of a lane is recorded for the fragment's park, for the lanes of which it holds, with an operation that returns nothing. -/
def AccessForm.StopsAtItsElements (F : AccessForm) (i : Instr) (s : State) (h : Here) : Prop :=
  let out (e : Nat) : Prop := F.buf.extent ≤ e ∨ 2 ^ 48 ≤ F.buf.place e
  let off (e : Nat) : Prop := F.buf.place e % 2 ^ F.buf.log2 ≠ 0
  ∃ t h' o p, exec i s = .next t ∧ Local s t F.base h' ∧ h'.frag = F.base.frag.finish F.y ∧
    h'.team = { F.base.team with nextOp := F.base.team.nextOp + 1, outs := F.base.team.outs ++ [o], faults := h'.team.faults, frags := h'.team.frags } ∧
    o.data = [] ∧ o.lanes = F.uses.act ∧ o.dst = F.uses.writes.flatMap fieldWords ∧ p ∈ h'.team.faults ∧ p.op = o.order ∧ p.pc = h.frag.pc ∧
    ((∃ k ∈ F.lanes, ∃ e ∈ F.elems k, out e) → p.cause = 0x10 ∧ ∀ k ∈ F.lanes, p.lanes.has k = true ↔ ∃ e ∈ F.elems k, out e) ∧
    ((∀ k ∈ F.lanes, ∀ e ∈ F.elems k, ¬out e) → (∃ k ∈ F.lanes, ∃ e ∈ F.elems k, off e) →
      p.cause = 0x11 ∧ ∀ k ∈ F.lanes, p.lanes.has k = true ↔ ∃ e ∈ F.elems k, off e) ∧
    ((∀ k ∈ F.lanes, ∀ e ∈ F.elems k, ¬out e ∧ ¬off e) → p.cause = 0x12 ∧ p.lanes = F.uses.act)

/-- The lines of the accesses, in the order in which they are translated. -/
def AccessForm.lines (F : AccessForm) : List Nat := ((F.lanes.flatMap F.elems).map fun e => F.buf.place e / 128).eraseDups

/-- Every line of the accesses translates by its choice of the tape, to `place` of its number, and so does the race metadata of their
granules (R124, R154, R395). -/
def AccessForm.translates (F : AccessForm) (s : State) (place : Nat → Place) : Prop :=
  ∀ t ∈ F.lanes, ∀ e ∈ F.elems t,
    let u := s.choicesOn ((if F.check.isSome then 3 else 1) * F.lines.idxOf (F.buf.place e / 128))
    u.lineAnswer F.base.group.cluster F.base.group.vd (F.buf.place e) (F.buf.place e) F.kind = .ok (place (F.buf.place e / 128)) ∧
    ∀ c, F.check = some c → ∀ a ∈ [F.buf.place e, F.buf.place e + 2 ^ F.buf.log2 - 1], ∀ j < 2,
      ∃ p, (u.choicesOn (j + 1)).lineAnswer F.base.group.cluster F.base.group.vd (c.table + 32 * ((a - c.base) / 512)) (c.table + 32 * ((a - c.base) / 512)) .write = .ok p

/-- The numbers of groups are distinct and below the next number, and those of requests in flight and held are below theirs. -/
def State.numbered (s : State) : Bool :=
  decide ((s.groups.map (·.gid)).Nodup) && (s.groups.all fun g => decide (g.gid < s.nextGroup)) &&
  (s.reqs.all fun r => decide (r.id < s.nextReq)) &&
  s.vds.all fun v => v.pageReqs.all fun q => q.waiters.all fun w => match w with | .line r _ => decide (r.id < s.nextReq) | _ => true

/-- From s to t the fragment of `b` has put operation o in flight for some lanes, with new requests of one action, and is parked as it
is in k; no byte, register or flag has changed, and nothing of any other group, team or fragment. -/
structure Sent (s t : State) (b k h' : Here) (y : Bool) (u : Uses) (o : Out) (act : Action) (new : List Req) : Prop where
  here : t.here = some h'
  rest : t = { s with groups := t.groups, fresh := t.fresh, oracle := t.oracle, tlb := t.tlb, walkCache := t.walkCache, reqs := s.reqs ++ new, nextReq := t.nextReq }
  group : h'.group = { b.group with teams := h'.group.teams, core := h'.group.core }
  groups : ∀ gid, gid ≠ s.cur.gid → t.group? gid = s.group? gid
  teams : ∀ tid, tid ≠ s.cur.tid → h'.group.team? tid = b.group.team? tid
  frags : ∀ e p, ¬(e = s.cur.ent ∧ p = s.cur.part) → h'.team.frag? e p = k.team.frag? e p
  team : h'.team = { b.team with nextOp := b.team.nextOp + 1, outs := b.team.outs ++ [o], frags := h'.team.frags }
  frag : h'.frag = { k.frag.finish y with hist := h'.frag.hist }
  hist : ∀ r ∈ new, r.id ∈ h'.frag.hist
  bytes : SameBytes s t
  op : o.id = b.team.nextOp ∧ o.kind = .memory ∧ o.pc = b.frag.pc ∧ o.lanes = u.act ∧ o.dst = u.writes.flatMap fieldWords ∧
    o.cc = u.ccWrite ∧ o.brec = u.bdst
  reqs : ∀ r ∈ new, s.nextReq ≤ r.id ∧ r.id < t.nextReq ∧ r.gid = s.cur.gid ∧ r.tid = s.cur.tid ∧ r.op = o.id ∧ r.action = act

/-! ### Steps of servers -/

/-- A step of a queue's server may reach some lines: their homes keep none waiting, and the permits and tokens are there (R402, R420,
R421, R436). -/
def State.reaches (s : State) (q : QueueId) (vas : List Nat) : Bool := s.mayReach q vas (if q.kind = .engine then lineCount vas else 0)

/-- The same state with the tokens of that step taken (R421). -/
def State.charged (s : State) (q : QueueId) (vas : List Nat) : State := s.pay q (if q.kind = .engine then lineCount vas else 0)

/-! ### Instructions on an object -/

/-- An instruction on a queue descriptor or a ring: the issuing fragment once its regions have ended, what it names, the object,
whether it writes it, the access and action of its request, the lanes with their bytes, and the park. -/
structure ObjectForm where
  y : Bool
  base : Here
  uses : Uses
  obj : ObjectAt
  writes : Bool
  kind : Access
  action : Action
  lanes : List (Nat × List Byte)
  park : Nat → Park

/-- AWAITF, RELSLOT and RDPROM on a ring (R317 to R319). -/
def Here.awaitForm (h : Here) (i : Instr) (y : Bool) (o : ObjectAt) (n : BitVec 8) : ObjectForm :=
  { y := y, base := h.endRegions, obj := o, writes := false, kind := .read, action := .await (h.first n), park := .awaitf
    uses := o.uses { word := wordOf i, reads := [(n.toNat, 1)], act := h.active, poison := h.oncePoison [(n.toNat, 1)] }
    lanes := [(h.active.lowest h.team.e0, [])] }
def Here.releaseForm (h : Here) (i : Instr) (y : Bool) (o : ObjectAt) (n : BitVec 8) : ObjectForm :=
  { y := y, base := h.endRegions, obj := o, writes := true, kind := .write, action := .release (h.first n), park := fun _ => .none
    uses := o.uses { word := wordOf i, reads := [(n.toNat, 1)], act := h.active, poison := h.oncePoison [(n.toNat, 1)] }
    lanes := [(h.active.lowest h.team.e0, [])] }
def Here.promiseForm (h : Here) (i : Instr) (y : Bool) (d : BitVec 8) (o : ObjectAt) (n : BitVec 8) : ObjectForm :=
  let uni := h.oneShape == .u && h.shapeWord n.toNat == .u
  { y := y, base := h, obj := o, writes := false, kind := .read, action := .promise, park := fun _ => .none
    uses := o.uses { word := wordOf i, writes := [(d.toNat, 2)], reads := [(n.toNat, 1)], long := true, act := h.active,
                     grow := if uni || h.team.isCore then [] else growOf .g d.toNat 2 }
    lanes := (h.storeLanes [n.toNat]).map fun t => (t, leBytes 4 (h.read n.toNat t).toNat) }

/-- The instructions on an object (R314 to R319). -/
def objectForm (h : Here) (i : Instr) : Option ObjectForm :=
  match i with
  | .qclaim y d b => some
      { y := y, base := h.endIdem, obj := h.descAt b, writes := true, kind := .write, action := .claim, park := fun _ => .none
        uses := (h.descAt b).uses { word := wordOf i, illop := modeCcw h.frag.mode == 0, writes := [(d.toNat, 1)], long := true,
                                    ccWrite := h.ccw, act := h.active, grow := growOf h.oneShape d.toNat 1 }
        lanes := [(h.active.lowest h.team.e0, [])] }
  | .qwrite y d b k n => some
      { y := y, base := h, obj := h.descAt b, writes := true, kind := .read, action := .queueStore (some k.toNat), park := fun _ => .none
        uses := (h.descAt b).uses { word := wordOf i, illop := decide (3 < k.toNat), reads := [(d.toNat, 4), (n.toNat, 1)], act := h.active }
        lanes := (h.storeLanes (n.toNat :: (List.range 4).map (d.toNat + ·))).map fun t =>
          (t, leBytes 4 (h.read n.toNat t).toNat ++ ((List.range 4).map (d.toNat + ·)).flatMap fun r => leBytes 4 (h.read r t).toNat) }
  | .qpost y b n => some
      { y := y, base := h.endRegions, obj := h.descAt b, writes := true, kind := .read, action := .queueStore none, park := fun _ => .none
        uses := (h.descAt b).uses { word := wordOf i, reads := [(n.toNat, 1)], act := h.active }
        lanes := (h.storeLanes [n.toNat]).map fun t => (t, leBytes 4 (h.read n.toNat t).toNat) }
  | .awaitf y b n => some (h.awaitForm i y (h.ringAt b) n)
  | .awaitfWindow y b n => some (h.awaitForm i y (h.windowRingAt b) n)
  | .relslot y b n => some (h.releaseForm i y (h.ringAt b) n)
  | .relslotWindow y b n => some (h.releaseForm i y (h.windowRingAt b) n)
  | .rdprom y d b n => some (h.promiseForm i y d (h.ringAt b) n)
  | .rdpromWindow y d b n => some (h.promiseForm i y d (h.windowRingAt b) n)
  | _ => none

/-- The race metadata of the object translates, where accesses to it are checked (R154). -/
def ObjectForm.metadataTranslates (F : ObjectForm) (s : State) : Prop :=
  F.obj.buf.window = false → ∀ c, F.base.recordCheck F.obj.buf.num = some c → c.base ≤ F.obj.addr → F.obj.addr + F.obj.size ≤ c.table →
    ∀ a ∈ [F.obj.addr, F.obj.addr + F.obj.size - 1], ∀ j < 2,
      ∃ p, (s.choicesOn (j + 1)).lineAnswer F.base.group.cluster F.base.group.vd (c.table + 32 * ((a - c.base) / 512)) (c.table + 32 * ((a - c.base) / 512)) .write = .ok p

/-! ### Matrix instructions -/

/-- A matrix instruction: what it names, what must hold at issue beyond the register checks, the command, whether it parks, and whether
it ends a consistency region. -/
structure MatrixForm where
  y : Bool
  uses : Uses
  own : Prop
  what : MOp
  parks : Bool
  region : Bool

/-- The 1,024 elements from e on lie in a buffer, aligned (R329, R330). -/
def Buf.holds (b : Buf) (e : Nat) : Prop :=
  ∀ k < 1024, e + k < b.extent ∧ b.place (e + k) < 2 ^ 48 ∧ b.place (e + k) % 2 ^ b.log2 = 0

/-- MDRAIN (R329). -/
def Here.drainForm (h : Here) (i : Instr) (y : Bool) (t : BitVec 3) (b k : BitVec 4) (idx : BitVec 8) (raw : Bool) : MatrixForm :=
  let lsz := if raw then 4 else log2 h.format.bytes
  let x := (h.group.window? b.toNat).getD { num := b.toNat, offset := 0, log2sz := lsz, extent := 0 }
  { y := y, parks := false, region := false, own := x.buf.holds ((h.read idx.toNat 0).toNat + k.toNat)
    what := .drain t.toNat raw x ((h.read idx.toNat 0).toNat + k.toNat) h.type h.rnd h.sat h.ftz
    uses := { word := wordOf i, illop := ((h.group.window? b.toNat).map fun x => x.log2sz != lsz).getD false, reads := [(idx.toNat, 1)],
              window := some b.toNat } }

/-- MSAVE and MLOAD (R330): MLOAD reads its header from a register. -/
def Here.imageForm (h : Here) (i : Instr) (y : Bool) (b : BitVec 4) (window : Bool) (idx : BitVec 8) (hdr : Option (BitVec 8)) (t : BitVec 3) :
    MatrixForm :=
  let r := h.bufRecord b.toNat
  let e := (h.read idx.toNat 0).toNat
  let win := h.group.window? b.toNat
  let target : Target := if window then .window (win.getD { num := b.toNat, offset := 0, log2sz := 4, extent := 0 }) else .record r
  { y := y, parks := false, region := false
    own := (target.buf b.toNat).holds e ∧ (match hdr with
      | none => window = true ∨ (recRo r = false ∧ recPub r = false)
      | some c => headerOk (h.read c.toNat 0).toNat t.toNat = true)
    what := match hdr with
      | none => .save t.toNat target b.toNat e
      | some c => .load t.toNat target b.toNat e (h.read c.toNat 0)
    uses := { word := wordOf i, illop := if window then (win.map fun x => x.log2sz != 4).getD false else recLog2 r != 4,
              reads := (idx.toNat, 1) :: (hdr.map fun c => (c.toNat, 1)).toList, window := if window then some b.toNat else none,
              brec := if window then none else some b.toNat } }

/-- The matrix instructions (R325 to R334), which the control core issues. -/
def matrixForm (s : State) (h : Here) (i : Instr) : Option MatrixForm :=
  let plain (y : Bool) (u : Uses) (what : MOp) : Option MatrixForm := some { y := y, uses := u, own := True, what := what, parks := false, region := false }
  match i with
  | .mainit y c t w => plain y { word := wordOf i, illop := c == 3#2 || (c == 2#2 && t.getLsbD 0) } (.init c.toNat t.toNat w.toInt)
  | .mainitAuto y c t r => plain y { word := wordOf i, illop := c == 3#2 || (c == 2#2 && t.getLsbD 0) } (.initAuto c.toNat t.toNat r.toNat)
  | .mma y t => plain y { word := wordOf i } (.mma t.toNat)
  | .mresolve y t => plain y { word := wordOf i } (.resolve t.toNat)
  | .mdrain y t b k idx => some (h.drainForm i y t b k idx false)
  | .mdrainRaw y t b k idx => some (h.drainForm i y t b k idx true)
  | .mdrainp y t u => some { y := y, uses := { word := wordOf i, ccWrite := h.ccw }, own := (s.partner h.group).isSome = true,
                             what := .drainp t.toNat u.toNat, parks := false, region := true }
  | .msave y b t idx => some (h.imageForm i y b false idx none t)
  | .msaveWindow y b t idx => some (h.imageForm i y b true idx none t)
  | .mload y b t idx c => some (h.imageForm i y b false idx (some c) t)
  | .mloadWindow y b t idx c => some (h.imageForm i y b true idx (some c) t)
  | .mcmp y d t b => plain y { word := wordOf i, writes := [(d.toNat, 1)], reads := [(b.toNat, 1)] } (.cmp t.toNat (h.read b.toNat 0))
  | .mdrop y t => plain y { word := wordOf i } (.drop t.toNat)
  | .mdropFa y n => plain y { word := wordOf i, illop := n == 0#16 || decide (16 < n.toNat) } (.dropFifo false n.toNat)
  | .mdropFb y n => plain y { word := wordOf i, illop := n == 0#16 || decide (16 < n.toNat) } (.dropFifo true n.toNat)
  | .mstat y d t => plain y { word := wordOf i, writes := [(d.toNat, 1)] } (.stat t.toNat)
  | .mwait y t n => some { y := y, uses := { word := wordOf i, illop := n == 0#8 }, own := True, what := .wait t.toNat n.toNat, parks := true, region := true }
  | _ => none

end Sys2Proof.Machine
end

