-- ==== Sys2Proof/Certificates/Slice0/Obligations.lean ====
section
/-!
DEFINITION. The statements about the machine that the provers prove or refute. Each name says what its statement states; the
docstring names the rules of spec/ that it formalises.
-/
open Sys2Proof Sys2Proof.Machine

/-! ### Encoding -/

/-- Words written out from the encodings of 09 (R203 to R218) decode to the instructions they stand for, and four words with a
reserved value decode to none (R205, R219). -/
def Obligations.WrittenWordsDecode : Prop :=
  decode 0x1C050607#32 = .ok (.iadd false 5#8 6#8 7#8) ∧ decode 0xD10413D5#32 = .ok (.ld true 4#8 1#4 3#4 0xD5#8) ∧
  decode 0x020FFFFD#32 = .ok (.bra false 0#2 3#4 0x3FFFD#18) ∧ decode 0x03800004#32 = .ok (.jmpReg false 4#8) ∧
  decode 0x32020358#32 = .ok (.cvt false 2#7 3#8 0x58#8) ∧ decode 0x32820358#32 = .ok (.cvtFrom false 2#7 3#8 0x58#8) ∧
  decode 0x57062708#32 = .ok (.atom false 6#8 2#4 7#4 8#8) ∧ decode 0x65000FF8#32 = .ok (.mainit false 0#2 0#3 0xFF8#12) ∧
  decode 0x6F000001#32 = .ok (.mwait false 0#3 1#8) ∧ decode 0x5900002D#32 = .ok (.fence false 1#1 1#2 5#3) ∧
  decode 0x13000000#32 = .ok (.unassignedOpcode 0x13000000#32) ∧
  decode 0x25050601#32 = .error .mbz ∧ decode 0x06800004#32 = .error .reservedLiteral ∧
  decode 0x3205037F#32 = .error .reservedLiteral ∧ decode 0x6F000000#32 = .error .reservedLiteral

/-- The decoder reads back every well-formed instruction word that the encoder writes, with every operand at every value that
its field admits (R203 to R218). -/
def Obligations.DecodeReadsBackEncode : Prop :=
  ∀ i : Instr, i.isWord = true → i.wf = true → ∃ w, encode i = some w ∧ decode w = .ok i

/-- A word has one meaning: the instruction it decodes to is encoded as that very word (R203, R205). -/
def Obligations.EncodeWritesBackDecode : Prop :=
  ∀ (w : Word) (i : Instr), decode w = .ok i → encode i = some w

/-! ### Reset -/

/-- The state after power-on has teams as large as their counts say, legal mode registers and canonical memories. -/
def Obligations.PowerOnMeetsTheInvariants : Prop :=
  State.reset.shaped = true ∧ State.reset.legal = true ∧ State.reset.canonical = true

/-! ### Every step -/

/-- Every step answers a next state: no instruction and no event stops the machine (R10, R85, R219: what goes wrong is a trap or
a status of the machine). -/
def Obligations.EveryStepAnswersANextState : Prop := ∀ s : State, s.safe

/-- Every step keeps the memories canonical, so that two memories that read alike are equal data. -/
def Obligations.EveryStepKeepsMemoriesCanonical : Prop :=
  ∀ s t : State, s.canonical = true → step s = .next t → t.canonical = true

/-- Every step keeps every team and context as large as its counts say (R47, R59, R63, R69, R74, R118, R355). -/
def Obligations.EveryStepKeepsTeamsShaped : Prop :=
  ∀ s t : State, s.shaped = true → step s = .next t → t.shaped = true

/-- No step puts a reserved value into a mode register, where none was (R77, R244). -/
def Obligations.EveryStepKeepsModesLegal : Prop :=
  ∀ s t : State, s.legal = true → step s = .next t → t.legal = true

/-- A turn that an agent issues in, or the agent that is chosen in its place: one clock passes, the decision passes over the other ready
fragments, the agent's park ends, and where the bytes at its pc can be fetched the state that fetching leaves is given to the
decoded instruction (or traps ILLOP where they are none); then the launches whose wait conditions are met are ready (R55, R85,
R203, R219, R368). The model's choices here: turns come from an agenda (log 1), one clock passes for each issue (log 7), and the agent that
an agenda names issues, the decision passing over the others, where R55's bound on decisions still holds for these, or else the one that is due
first (log 99); and the trap of a word that is no instruction is for the lanes that act, whatever the guard (log 128). -/
def Obligations.AStepRunsTheDecodedInstruction : Prop :=
  ∀ (s : State) (a : AgentId) (rest : List Turn) (h h' : Here) (w : Word),
    s.agenda = .issue a :: rest → s.epochDue = false →
    let b := State.chosen { s with agenda := rest } a
    let t : State := { s with agenda := rest, cur := b, clock := s.clock + 1 }
    t.here = some h → t.ready h = true → (t.passOver b).here = some h' →
    (t.passOver b).fetch h'.group.cluster h'.group.vd h'.frag.pc.toNat = .word w →
    let u := ((t.passOver b).put h'.begin).afterFetch h'.group.cluster h'.group.vd h'.frag.pc.toNat
    (∀ i, decode w = .ok i → step s = andThen (exec i u) State.wakeLaunches) ∧
    (∀ e, decode w = .error e → step s = andThen (issue u fun k => k.raise k.frag.acting { cause := 1, detail := w }) State.wakeLaunches)

/-! ### Integer instructions -/

/-- ADDI, IADD, ISUB, IMUL, IMULH, IMAD, IMIN, IMAX, IABS, AND, OR, XOR, SHL, SHR, SAR, BFE, BFI, POPC, CLZ and BREV complete: where
the checks of R88 pass, each active lane's destination holds its result whatever the shape of the operands (R64, R70), the
condition code that CCW names holds its flags, the result enters the last-result file, and everything else is as it was. -/
def Obligations.IntegerInstructionsWriteEachLanesResult : Prop :=
  ∀ (i : Instr) (F : AluForm) (s : State) (h : Here), aluForm i = some F → s.shaped = true → s.legal = true → s.here = some h →
    h.check (F.uses i h) = none →
    ∃ t h', exec i s = .next t ∧ Local s t h h' ∧ OnlyRegs F.y h.team.fpctl h h' ∧
      Wrote F.y F.d.toNat h.words h.active (fun k => h.intFmt.place (F.res h k).pat) h h' ∧
      WroteFlags h.ccw (fun k => (F.res h k).flags h.intFmt) h h'

/-- What the results of those instructions are, for operand patterns of the acting format (R253, R254, R258, R259, R261 to R265): a sum,
difference, product, sum of products, magnitude or left shift is exact, then wrapped to the width or clamped under SAT; V says that the exact value
is outside the format's range, C of a sum that the unsigned sum passes the width, C of a difference that A is not below B, and N and Z come
from the pattern that is stored. IMULH keeps the high half of the product, IMIN and IMAX the lesser and the greater value; AND, OR and XOR combine
bit by bit; a shift takes its amount modulo the width, and its C is the last bit that it moves out; SAR copies the top bit under any TYPE; BFE and BFI cut
their field at the top; POPC counts ones, CLZ the zeros above the highest one, and BREV turns the pattern round. -/
def Obligations.IntegerResultsAreExactThenNarrowed : Prop :=
  ∀ (T : IntFmt) (p q d : Nat), T.n ∈ [8, 16, 32, 64] → p < 2 ^ T.n → q < 2 ^ T.n → d < 2 ^ T.n →
    let lo : Int := if T.signed then -(2 ^ (T.n - 1) : Nat) else 0
    let hi : Int := if T.signed then (2 ^ (T.n - 1) : Nat) - 1 else (2 ^ T.n : Nat) - 1
    let val (v : Nat) : Int := if T.signed then (BitVec.ofNat T.n v).toInt else v
    let exact (x : Int) (r : IntRes) (sb : Bool) : Prop := r.pat < 2 ^ T.n ∧ (r.v = true ↔ x < lo ∨ hi < x) ∧
      (lo ≤ x → x ≤ hi → val r.pat = x) ∧ (sb = true → x < lo → val r.pat = lo) ∧ (sb = true → hi < x → val r.pat = hi) ∧
      (sb = false → ((2 ^ T.n : Nat) : Int) ∣ x - r.pat)
    let bits (r : IntRes) (f : Nat → Bool) : Prop := r.pat < 2 ^ T.n ∧ r.v = false ∧ ∀ j < T.n, r.pat.testBit j = f j
    (∀ sb, exact (val p + val q) (addRes T sb p q) sb ∧ exact (val p - val q) (subRes T sb p q) sb ∧
      exact (val p * val q) (mulRes T sb p q) sb ∧ exact (val p * val q + val d) (madRes T sb d p q) sb ∧
      exact (if T.signed then (val p).natAbs else p) (absRes T sb p) sb ∧
      ((addRes T sb p q).c = true ↔ 2 ^ T.n ≤ p + q) ∧ ((subRes T sb p q).c = true ↔ q ≤ p) ∧
      (mulRes T sb p q).c = false ∧ (madRes T sb d p q).c = false ∧ (absRes T sb p).c = false ∧
      ∀ i : BitVec 16, exact (val p + i.toInt) (addiRes T sb p i.toInt) sb ∧
        ((addiRes T sb p i.toInt).c = true ↔ ((2 ^ T.n : Nat) : Int) ≤ p + i.toInt % (2 ^ T.n : Nat))) ∧
    val (mulhRes T p q).pat = val p * val q / (2 ^ T.n : Nat) ∧ (mulhRes T p q).pat < 2 ^ T.n ∧ (mulhRes T p q).c = false ∧ (mulhRes T p q).v = false ∧
    val (minRes T p q).pat = min (val p) (val q) ∧ val (maxRes T p q).pat = max (val p) (val q) ∧
    (∀ r ∈ [minRes T p q, maxRes T p q], (r.pat = p ∨ r.pat = q) ∧ r.c = false ∧ r.v = false) ∧
    bits (bitRes (p &&& q)) (fun j => p.testBit j && q.testBit j) ∧ bits (bitRes (p ||| q)) (fun j => p.testBit j || q.testBit j) ∧
    bits (bitRes (p ^^^ q)) (fun j => p.testBit j != q.testBit j) ∧
    (∀ amount, let s := amount % T.n
      (∀ sb, exact (val p * (2 ^ s : Nat)) (shlRes T sb p amount) sb ∧ ((shlRes T sb p amount).c = true ↔ 0 < s ∧ p.testBit (T.n - s) = true)) ∧
      bits (shrRes T p amount) (fun j => p.testBit (j + s)) ∧ bits (sarRes T p amount) (fun j => p.testBit (min (j + s) (T.n - 1))) ∧
      ∀ r ∈ [shrRes T p amount, sarRes T p amount], (r.c = true ↔ 0 < s ∧ p.testBit (s - 1) = true)) ∧
    (∀ field, let pos := field % 256
      let len := if pos < T.n then min (field / 256 % 256) (T.n - pos) else 0
      bits (bfeRes T p field) (fun j => decide (0 < len) && (if j < len then p.testBit (pos + j) else T.signed && p.testBit (pos + len - 1))) ∧
      bits (bfiRes T d p field) (fun j => if pos ≤ j ∧ j < pos + len then p.testBit (j - pos) else d.testBit j) ∧
      (bfeRes T p field).c = false ∧ (bfiRes T d p field).c = false) ∧
    popcount T.n p = ((List.range T.n).filter p.testBit).length ∧
    (p = 0 → clzOf T.n p = T.n) ∧ (∀ j < T.n, p.testBit j = true → (∀ k, j < k → p.testBit k = false) → clzOf T.n p = T.n - 1 - j) ∧
    bits (bitRes (brevOf T.n p)) (fun j => p.testBit (T.n - 1 - j)) ∧
    (∀ v, (bitRes v).c = false ∧ (bitRes v).v = false ∧ (bitRes v).pat = v) ∧
    ∀ r : IntRes, r.pat < 2 ^ T.n →
      ((r.flags T).n = true ↔ 2 ^ (T.n - 1) ≤ r.pat) ∧ ((r.flags T).z = true ↔ r.pat = 0) ∧ (r.flags T).c = r.c ∧ (r.flags T).v = r.v

/-- ICMP and FCMP complete: they write the flags of the active lanes alone, FCMP only where CCW names a condition code, and
raises IV there for a signalling NaN; where FPCTL enables IV the lanes that raise it trap FPEXC, and the others write their flags (R80, R258,
R273, R274, R282). -/
def Obligations.ComparesWriteFlagsAlone : Prop :=
  (∀ (y : Bool) (a b : BitVec 8) (s : State) (h : Here), s.shaped = true → s.legal = true → s.here = some h →
    h.check { word := wordOf (.icmp y a b), illop := !h.format.isInt, reads := [(a.toNat, h.words), (b.toNat, h.words)],
              ccWrite := h.ccw, act := h.active } = none →
    ∃ t h', exec (.icmp y a b) s = .next t ∧ Local s t h h' ∧ OnlyRegs y h.team.fpctl h h' ∧ NoWrite y h h' ∧
      WroteFlags h.ccw (fun k => (subRes h.intFmt false (h.pat a k) (h.pat b k)).flags h.intFmt) h h') ∧
  (∀ (y : Bool) (a b : BitVec 8) (s : State) (h : Here), s.shaped = true → s.legal = true → s.here = some h →
    h.check { word := wordOf (.fcmp y a b), illop := h.format.isInt, reads := [(a.toNat, h.words), (b.toNat, h.words)],
              ccWrite := h.ccw, act := h.active } = none →
    let fl (k : Nat) : FFlags := snanFlag [h.fnum a k, h.fnum b k]
    (h.ccw = none ∨ h.untrapped fl → ∃ t h', exec (.fcmp y a b) s = .next t ∧ Local s t h h' ∧
      OnlyRegs y (if h.ccw = none then h.team.fpctl else h.raisedFp fl) h h' ∧ NoWrite y h h' ∧
      WroteFlags h.ccw (fun k => cmpFlags (h.fnum a k) (h.fnum b k)) h h') ∧
    (h.ccw ≠ none → ¬h.untrapped fl → ∃ t h', exec (.fcmp y a b) s = .next t ∧ Local s t h h' ∧ TrapsFpexc fl h h' ∧ NoWrite false h h' ∧
      WroteFlagsOf (h.active &&& ~~~h.raisers fl) h.ccw (fun k => cmpFlags (h.fnum a k) (h.fnum b k)) h h'))

/-- MOVI, MOVIH, MOV, SEL, GETMODE, SHAPE, WIDF (one word and 64-bit), FCLASS, and RFAL of a uniform source complete: each of their
lanes (for GETMODE every lane of the mask, else the active lanes) receives its value, and no flag changes (R245, R257, R266,
R283, R290, R297, R298). -/
def Obligations.MovesWriteEachLanesValue : Prop :=
  ∀ (i : Instr) (F : MoveForm) (s : State) (h : Here), s.shaped = true → s.here = some h → moveForm h i = some F → h.check F.uses = none →
    ∃ t h', exec i s = .next t ∧ Local s t h h' ∧ OnlyRegs F.y h.team.fpctl h h' ∧ h'.team.cc = h.team.cc ∧
      Wrote F.y F.d F.words F.act F.val h h'

/-- FADD, FSUB, FMUL, FFMA, FMIN, FMAX, FSGN and FRND complete where no active lane raises a flag that FPCTL enables: each active
lane's destination holds its result, the flags raised are ORed into FPCTL, and the condition code that CCW names holds the
result's sign, zero and NaN (R272 to R277, R280, R281, R284). Lanes that raise a flag which FPCTL enables trap FPEXC, their destinations and
condition codes unwritten, with the flag set still; the other active lanes are written (R80). -/
def Obligations.FloatInstructionsWriteEachLanesResult : Prop :=
  ∀ (i : Instr) (F : FloatForm) (s : State) (h : Here), floatForm i = some F → s.shaped = true → s.legal = true → s.here = some h →
    h.check (h.fpUses (wordOf i) F.illop true F.d F.reads) = none →
    let fl (k : Nat) : FFlags := (F.res h k).2
    (h.untrapped fl → ∃ t h', exec i s = .next t ∧ Local s t h h' ∧ OnlyRegs F.y (h.raisedFp fl) h h' ∧
      Wrote F.y F.d.toNat h.words h.active (fun k => (F.res h k).1) h h' ∧
      WroteFlags h.ccw (fun k => floatFlags h.format (F.res h k).1) h h') ∧
    (¬h.untrapped fl → ∃ t h', exec i s = .next t ∧ Local s t h h' ∧ TrapsFpexc fl h h' ∧
      Wrote false F.d.toNat h.words (h.active &&& ~~~h.raisers fl) (fun k => (F.res h k).1) h h' ∧
      WroteFlagsOf (h.active &&& ~~~h.raisers fl) h.ccw (fun k => floatFlags h.format (F.res h k).1) h h')

/-- CVT in both directions completes where no active lane raises a flag that FPCTL enables: each active lane's source, read in its
format, is rounded into the other and written, and no condition code changes (R215, R267, R269). Lanes that raise an enabled flag trap FPEXC, with
their destinations unwritten and the flag set, and the others are written (R80). -/
def Obligations.ConversionsWriteEachLanesResult : Prop :=
  ∀ (y : Bool) (d : BitVec 7) (a f : BitVec 8) (L : Format) (back : Bool) (s : State) (h : Here), codeFormat f.toNat = some L →
    s.shaped = true → s.here = some h →
    let i := if back then Instr.cvtFrom y d a f else Instr.cvt y d a f
    let src := if back then L else h.format
    let dst := if back then h.format else L
    let n (g : Format) := if g.is64 then 2 else 1
    let res (k : Nat) := cvtLane src dst h.rnd h.sat h.ftz (h.readN a.toNat (n src) k)
    h.check { word := wordOf i, writes := [(d.toNat, n dst)], reads := [(a.toNat, n src)], act := h.active,
              grow := growOf (h.shapeOf .other h.active [h.shapeN a.toNat (n src)]) d.toNat (n dst) } = none →
    let fl (k : Nat) : FFlags := (res k).2
    (h.untrapped fl → ∃ t h', exec i s = .next t ∧ Local s t h h' ∧ OnlyRegs y (h.raisedFp fl) h h' ∧ h'.team.cc = h.team.cc ∧
      Wrote y d.toNat (n dst) h.active (fun k => (res k).1) h h') ∧
    (¬h.untrapped fl → ∃ t h', exec i s = .next t ∧ Local s t h h' ∧ TrapsFpexc fl h h' ∧ h'.team.cc = h.team.cc ∧
      Wrote false d.toNat (n dst) (h.active &&& ~~~h.raisers fl) (fun k => (res k).1) h h')

/-- A conversion between integer formats of a value that fits keeps the value and raises no flag, whatever RND and SAT (R92, R267, R268). -/
def Obligations.IntegerConversionKeepsValuesThatFit : Prop :=
  ∀ (s1 s2 sb : Bool) (n1 n2 rm p : Nat), n1 ∈ [8, 16, 32, 64] → n2 ∈ [8, 16, 32, 64] → p < 2 ^ n1 →
    let x := intOf s1 n1 p
    (intRange (.int s2 n2)).1 ≤ x → x ≤ (intRange (.int s2 n2)).2 →
    intOf s2 n2 (cvtLane (.int s1 n1) (.int s2 n2) rm sb false p).1 = x ∧ (cvtLane (.int s1 n1) (.int s2 n2) rm sb false p).2 = 0#5

/-! ### Long-latency instructions -/

/-- The lanes of a division divide by no zero, or IDZQ makes that quiet (R260); of any other instruction this says nothing. -/
def quietDivision (h : Here) : Instr → Prop
  | .idiv _ _ _ b | .irem _ _ _ b => h.team.idzq = true ∨ ∀ k < h.team.e0, h.active.has k → h.pat b k ≠ 0
  | _ => True

/-- IDIV, IREM, FRCP, FRSQ, FSQRT, FDIV, FEXP2, FLOG2, FSIN, FCOS, RFAL of a source that is not uniform, BALLOT, VOTE, SHFL, REDU and
SCAN complete, where the checks pass and no active lane traps: with an active lane they put an operation in flight that holds
every active lane's result, with its flags and the float flags it raises, and whose destination is pending; with none they start
nothing (R83, R84, R260, R278, R290 to R293). Lanes that raise an enabled flag have FPEXC recorded for the fragment's park, and the operation
returns the others (R80, R85). -/
def Obligations.LongLatencyInstructionsPutTheirResultsInFlight : Prop :=
  ∀ (i : Instr) (F : LongForm) (s : State) (h : Here), s.shaped = true → s.here = some h → longForm h i = some F → h.check F.uses = none →
    quietDivision h i →
    (h.untrapped F.fp → ∃ t h', exec i s = .next t ∧ Local s t h h' ∧
      (h.active = 0#1024 → h'.team = { h.team with frags := h'.team.frags } ∧ h'.frag = h.frag.finish F.y) ∧
      (h.active ≠ 0#1024 → ∃ o, Started F.y F.uses o h h' ∧ o.kind = .calc ∧ o.data = h.lanes.map (fun k => (k, F.val k)) ∧
        (∀ c, o.cc = some c → o.ccData = h.lanes.map fun k => (k, F.flags k)) ∧
        o.fp = BitVec.ofNat 32 ((allFlags h.lanes F.fp).toNat * 16))) ∧
    (¬h.untrapped F.fp → ∃ t h' o p, exec i s = .next t ∧ Local s t h h' ∧ h'.frag = h.frag.finish F.y ∧
      h'.team = { h.team with nextOp := h.team.nextOp + 1, outs := h.team.outs ++ [o], faults := h'.team.faults, frags := h'.team.frags } ∧
      o.data = (h.lanes.filter fun k => !(h.raisers F.fp).has k).map (fun k => (k, F.val k)) ∧ o.dst = F.uses.writes.flatMap fieldWords ∧
      o.fp = BitVec.ofNat 32 ((allFlags h.lanes F.fp).toNat * 16) ∧
      p ∈ h'.team.faults ∧ p.cause = 0x21 ∧ p.lanes = h.raisers F.fp ∧ p.detail = h.raisedDetail F.fp ∧ p.pc = h.frag.pc ∧ p.op = o.order)

/-- IDIV and IREM with a zero divisor while IDZQ is 0: the lanes that divide by zero trap DIVZ, and the others return (R260). -/
def Obligations.DivisionByZeroTrapsItsLanes : Prop :=
  ∀ (y rem : Bool) (d a b : BitVec 8) (s : State) (h : Here), s.shaped = true → s.here = some h → h.team.idzq = false →
    let i := if rem then Instr.irem y d a b else Instr.idiv y d a b
    let bad := Mask.ofPred h.team.e0 fun k => h.active.has k && h.pat b k == 0
    h.check { h.intUses (wordOf i) (!h.format.isInt) true d [a, b] .other with long := true } = none → bad ≠ 0#1024 →
    ∃ t h' o p, exec i s = .next t ∧ Local s t h h' ∧ h'.team.outs = h.team.outs ++ [o] ∧ p ∈ h'.team.faults ∧ p.cause = 0x20 ∧
      p.lanes = bad ∧ p.pc = h.frag.pc ∧ p.op = o.order ∧
      o.data.map (·.1) = h.lanes.filter fun k => h.pat b k != 0

/-- LONG_LATENCY_RETURN: an operation that may return (nothing of it is under way, and a fault of it waits until its fragment has
parked) and that found no failed word writes each lane's words to its destination, its flags to its condition code and its
record to its b register, ORs its float flags into FPCTL, and is outstanding no more, and of the fragments nothing changes but since when
they wait; then the group settles (R80, R83 to R85). -/
def Obligations.ReturnsWriteTheirLanes : Prop :=
  ∀ (s : State) (a : AgentId) (op : Nat) (g : Group) (tm : Team) (o : Out), s.shaped = true →
    s.group? a.gid = some g → g.team? a.tid = some tm → (tm.outs.find? fun x => x.id == op) = some o → s.mayReturn g.gid tm o = true →
    o.dst.Nodup → (∀ r ∈ o.dst, if r < 0xC0 then r < tm.v.length else r - 0xC0 < tm.o.length) → (∀ c, o.cc = some c → c < 4) →
    o.part = [] → o.bad = [] → (o.uni = true → ∀ p ∈ o.data, ∀ q ∈ o.data, p.2 = q.2) →
    ∃ u g' tm', exec (.longLatencyReturn a op) s = .next (u.settle g.gid) ∧ u.group? a.gid = some g' ∧ g'.team? a.tid = some tm' ∧
      (∀ k r, o.dst[k]? = some r → ∀ t < tm.e0, (∃ v, (t, v) ∈ o.data) →
        (tm'.reg r).val.lane t = BitVec.ofNat 32 (assocGet o.data t 0 / 2 ^ (32 * k)) ∧ (tm'.reg r).poisoned t = false) ∧
      (∀ r < 0xD0, r ∉ o.dst → tm'.reg r = tm.reg r) ∧
      (∀ c t f, o.cc = some c → t < tm.e0 → (o.ccData.find? fun p => p.1 == t) = some (t, f) → tm'.ccOf c t = f) ∧
      (∀ b p, o.brec = some b → o.data.head? = some p → b < 16 → tm'.b[b]? = some (BitVec.ofNat 128 p.2)) ∧
      tm'.fpctl = tm.fpctl ||| o.fp ∧ tm'.outs = tm.outs.filter (fun x => x.id != op) ∧
      (tm'.frags.map fun f => { f with since := 0 }) = (tm.frags.map fun f => { f with since := 0 }) ∧ SameBytes s u

/-- XSHUF completes at its arrival: with nothing outstanding, a partner that has not ended, and no fragment of the team at another
arrival point, the fragment ends its idempotent region, offers its values, and parks at the exchange; then the group and its
partner settle, which makes the exchange once both teams have arrived (R295, R296). -/
def Obligations.XshufArrivesAtItsExchange : Prop :=
  ∀ (y : Bool) (d a b : BitVec 8) (s : State) (h : Here), s.shaped = true → s.here = some h →
    let u : Uses := { h.laneUses (wordOf (.xshuf y d a b)) false false true d [a, b] h.laneShape with
      poison := some (h.poisonRead { word := wordOf (.xshuf y d a b), reads := [(b.toNat, h.words)], act := h.active }) }
    h.check u = none → h.quiet = true → s.partnerGone h.endIdem.group h.team = false → h.endIdem.mixed (.xshuf 0) = false →
    ∃ v h' o, exec (.xshuf y d a b) s = .next (v.settlePair h.group.gid) ∧ v.here = some h' ∧ h'.team.outs = h.team.outs ++ [o] ∧
      o.kind = .xshuf ((List.range h.team.e0).map fun k => h.readN a.toNat h.words k) ((List.range h.team.e0).map fun k => (h.read b.toNat k).toNat) ∧
      o.data.map (·.1) = h.lanes ∧ o.dst = u.writes.flatMap fieldWords ∧ h'.frag.park = .xshuf o.id ∧ h'.frag.marked = y ∧
      h'.frag.pc = h.frag.nextPc ∧ h'.frag.region = none ∧ h'.team.v = h.team.v ∧ h'.team.o = h.team.o ∧ h'.team.cc = h.team.cc ∧
      SameBytes s v

/-- RDIDX and WRIDX complete where every active lane's computed register is one that may be named, is not pending (nor, for WRIDX,
locked), and, for RDIDX, is not poisoned there: RDIDX gives each active lane that register's word of the lane, and WRIDX puts each
active lane's source word there, every other lane and register unchanged (R299, R300). -/
def Obligations.ComputedRegisterNumbersReadAndWrite : Prop :=
  (∀ (y : Bool) (d a : BitVec 8) (s : State) (h : Here), s.shaped = true → s.here = some h →
    let n (k : Nat) : Nat := (h.read a.toNat k).toNat
    let u : Uses := { word := wordOf (.rdidx y d a), writes := [(d.toNat, 1)], reads := [(a.toNat, 1)], act := h.active }
    let sh : Shape := if h.shapeWord a.toNat = .u then h.shapeOf .mov h.active [h.shapeWord (n (h.active.lowest h.team.e0))] else .g
    h.check u = none → h.check { u with grow := growOf sh d.toNat 1 } = none →
    (∀ k < h.team.e0, h.active.has k → n k < h.team.vCount ∧ n k ∉ h.team.pending ∧ (h.team.reg (n k)).poisoned k = false) →
    ∃ t h', exec (.rdidx y d a) s = .next t ∧ Local s t h h' ∧ OnlyRegs y h.team.fpctl h h' ∧ h'.team.cc = h.team.cc ∧
      Wrote y d.toNat 1 h.active (fun k => ((h.team.reg (n k)).val.lane k).toNat) h h') ∧
  (∀ (y : Bool) (d a : BitVec 8) (s : State) (h : Here), s.shaped = true → s.here = some h →
    let n (k : Nat) : Nat := (h.read d.toNat k).toNat
    let u : Uses := { word := wordOf (.wridx y d a), reads := [(d.toNat, 1), (a.toNat, 1)], act := h.active }
    let lanesOf (r : Nat) : Mask := if h.shapeWord d.toNat = .u then h.active else Mask.ofPred h.team.e0 fun k => h.active.has k && n k == r
    h.check u = none →
    h.check { u with grow := (h.lanes.map n).eraseDups.filter fun r => h.shapeOf .mov (lanesOf r) [h.shapeWord a.toNat] == .g } = none →
    (∀ k < h.team.e0, h.active.has k → n k < h.team.vCount ∧ n k ∉ h.team.pending ∧ n k ∉ h.team.locked) →
    ∃ t h', exec (.wridx y d a) s = .next t ∧ Local s t h h' ∧ OnlyRegs y h.team.fpctl h h' ∧ h'.team.cc = h.team.cc ∧
      h'.team.o = h.team.o ∧ h'.frag.x = (if y then [] else h.frag.x) ∧
      ∀ r < 0xC0, ∀ k < h.team.e0, h'.read r k = (if h.active.has k ∧ n k = r then h.read a.toNat k else h.read r k) ∨ !h.team.live.has k)

/-! ### Control instructions -/

/-- NOP, CONV below the limit of levels, and IREGION complete whatever the guard: NOP only advances the pc, CONV pushes a join point
with the next join number that no live join point holds, and IREGION starts a region with a snapshot at the next instruction (R231, R237, R246, R49). That the snapshot holds of the join stack the
fragment's own join points and the deferred sets of its entry that have not run yet is the model's choice (log 106). -/
def Obligations.PlainControlInstructionsComplete : Prop :=
  ∀ (y : Bool) (s : State) (h : Here), s.shaped = true → s.here = some h →
    (∃ t h', exec (.nop y) s = .next t ∧ Local s t h h' ∧ h'.frag = h.frag.finish y ∧ h'.team = { h.team with frags := h'.team.frags } ∧
      h'.group.restarted = h.group.restarted) ∧
    (∀ off : BitVec 24, h.levels < 16 → ∃ t h' n, exec (.conv y off) s = .next t ∧ Local s t h h' ∧
      h'.frag = { h.frag.finish y with
        joins := { addr := h.frag.pc + BitVec.ofInt 48 (4 * off.toInt), num := n } :: h.frag.joins } ∧
      h'.team = { h.team with frags := h'.team.frags, joinCtr := (n + 1) % 2 ^ 32 } ∧
      (h.team.joinCtr < 2 ^ 32 → h.team.joinCtr ∉ h.team.joinNums → n = h.team.joinCtr) ∧
      (h.team.joinNums.length < 2 ^ 32 → n ∉ h.team.joinNums)) ∧
    (h.team.isCore = false → ∃ t h', exec (.iregion y) s = .next t ∧ Local s t h h' ∧
      h'.frag = { h.frag.finish y with region := some (Snapshot.mk (h.frag.pc + 4#48) h.frag.mask h.frag.joins h.deferredSets h.frag.mode h.team.fpctl h.team.acquired) } ∧
      h'.team = { h.team with frags := h'.team.frags } ∧ h'.group.restarted = false)

/-- SETMODE and GETMODE (R77): SETMODE of an image with no reserved value replaces the whole mode register and nothing else, whatever the
guard; a word of SETMODE with a reserved value in a field, or with bit 23 set, is no instruction, and it traps ILLOP and leaves the mode
register as it was; GETMODE gives every lane of the mask the register's image. -/
def Obligations.SetmodeWritesTheModeWholeAndGetmodeReadsIt : Prop :=
  ∀ (y : Bool) (s : State) (h : Here), s.shaped = true → s.here = some h →
    let reserved (m : Nat) : Prop := 11 < m % 16 ∨ 4 < m / 2 ^ 10 % 8 ∨ 5 < m / 2 ^ 13 % 8 ∨ 6 < m / 2 ^ 20 % 8
    (∀ m : BitVec 23, ¬reserved m.toNat → ∃ t h', exec (.setmode y m) s = .next t ∧ Local s t h h' ∧
      h'.frag = { h.frag.finish y with mode := m.zeroExtend 24 } ∧ h'.team = { h.team with frags := h'.team.frags }) ∧
    (∀ w : Word, w.toNat / 2 ^ 24 % 128 = 0x0D → (reserved w.toNat ∨ w.getLsbD 23 = true) →
      (∃ e, decode w = .error e) ∧
      ∃ t h' p, issue s (fun k => k.raise k.frag.acting { cause := 1, detail := w }) = .next t ∧ Local s t h h' ∧ h'.frag.park = .trap ∧
        h'.frag.mode = h.frag.mode ∧ p ∈ h'.team.faults ∧ p.cause = 0x01 ∧ p.lanes = h.frag.acting ∧ p.detail = w ∧ p.pc = h.frag.pc) ∧
    (∀ d : BitVec 8,
      h.check { word := wordOf (.getmode y d), writes := [(d.toNat, 1)], guard := false, act := h.frag.acting,
                grow := growOf (if h.team.isCore ∨ h.frag.acting = h.team.live then .u else .g) d.toNat 1 } = none →
      ∃ t h', exec (.getmode y d) s = .next t ∧ Local s t h h' ∧ OnlyRegs y h.team.fpctl h h' ∧ h'.team.cc = h.team.cc ∧
        Wrote y d.toNat 1 h.frag.acting (fun _ => h.frag.mode.toNat) h h')

/-- SLEEPUNTIL, ACQUIRE and FORK complete by going on or by parking: SLEEPUNTIL goes on where every target is past and parks
otherwise; ACQUIRE goes on where the team has grown already and parks otherwise; FORK ends both kinds of region and parks until
its grant, holding the entry address and descriptor of the lowest lane that acts, behind the FORKs of its cluster that wait (R242, R243,
R247). A part of a serial split that sleeps or forks hands its entry over (R43). That an entry address at or above 2^48 is taken modulo
2^48 is the model's choice (log 82). -/
def Obligations.WaitingControlInstructionsPark : Prop :=
  (∀ (y : Bool) (a : BitVec 8) (s : State) (h : Here), s.shaped = true → s.here = some h →
    h.check { word := wordOf (.sleepuntil y a), reads := [(a.toNat, 1)], guard := false, act := h.frag.acting } = none →
    let ts := (h.frag.acting.lanes h.team.e0).map fun k => h.read a.toNat k
    ((∀ w ∈ ts, (BitVec.ofNat 32 h.clock - w).msb = false) → ∃ t h', exec (.sleepuntil y a) s = .next t ∧ Local s t h h' ∧
      h'.team = { h.team with frags := h'.team.frags } ∧ h'.frag = h.frag.finish y) ∧
    ((∃ w ∈ ts, (BitVec.ofNat 32 h.clock - w).msb = true) → ∃ t h', exec (.sleepuntil y a) s = .next t ∧ Local s t (h.parkedAt (.sleep ts)) h' ∧
      h'.team = { h.team with frags := h'.team.frags } ∧ h'.frag = (h.parkedAt (.sleep ts)).frag.finish y)) ∧
  (∀ (y : Bool) (s : State) (h : Here), s.shaped = true → s.here = some h → h.team.isCore = false →
    ∃ t h', exec (.acquire y) s = .next t ∧ Local s t h h' ∧ h'.team = { h.team with frags := h'.team.frags } ∧
      h'.frag = Frag.finish y { h.frag with park := if h.team.acquired then h.frag.park else .acquire }) ∧
  (∀ (y : Bool) (a b : BitVec 8) (s : State) (h : Here), s.shaped = true → s.here = some h →
    let w := wordOf (.fork y a b)
    let lane := h.frag.acting.lowest h.team.e0
    h.check { word := w, illop := h.team.isCore || ((s.launchOf h.group).map (·.hdr.cv)).getD 0 == 0 || h.group.coreRuns, guard := false,
              reads := [(a.toNat, 2), (b.toNat, 2)], act := h.frag.acting,
              poison := some (h.poisonRead { word := w, reads := [(a.toNat, 2), (b.toNat, 2)], act := BitVec.ofNat 1024 (2 ^ lane) }) } = none →
    h.readN a.toNat 2 lane % 4 = 0 →
    let p := Park.fork (h.readN a.toNat 2 lane % 2 ^ 48) (h.readN b.toNat 2 lane) (s.forkTail h.group.cluster) w
    ∃ t h', exec (.fork y a b) s = .next t ∧ Local s t (h.parkedAt p) h' ∧ h'.team.v = h.team.v ∧ h'.team.o = h.team.o ∧ h'.team.cc = h.team.cc ∧
      h'.frag.park = p ∧ (∀ x ∈ s.forks h.group.cluster, x.2.1 < s.forkTail h.group.cluster) ∧ h'.frag.marked = y ∧
      h'.frag.pc = h.frag.nextPc ∧ h'.frag.region = none ∧ h'.frag.seq = (h.team.seqCtr + 1) % 2 ^ 20 ∧ h'.frag.mask = h.frag.mask)

/-- A transfer as the issuing fragment takes it: what it names, the lanes that take it, each lane's target, and whether a CALL
writes the return address to v0:v1 (R233, R236). -/
structure BranchForm where
  y : Bool
  uses : Uses
  takes : Mask
  target : Nat → Nat
  link : Bool

/-- BRA, JMP, CALL and RET in each of their forms. -/
def branchForm (h : Here) (i : Instr) : Option BranchForm :=
  let linked : Uses := { word := wordOf i, act := h.active, writes := [(0, 2)],
                         grow := growOf (if h.team.isCore || h.active == h.team.live then .u else .g) 0 2 }
  let relative (off : Int) (_ : Nat) : Nat := (h.frag.pc + BitVec.ofInt 48 (4 * off)).toNat
  match i with
  | .bra y cc cond off => some ⟨y, { word := wordOf i, act := h.active, ccRead := if cond = 0#4 ∨ cond = 15#4 then [] else [cc.toNat] },
      Mask.ofPred h.team.e0 fun k => h.active.has k && condPasses cond.toNat (h.team.ccOf cc.toNat k), relative off.toInt, false⟩
  | .jmp y off => some ⟨y, { word := wordOf i, act := h.active }, h.active, relative off.toInt, false⟩
  | .jmpReg y a => some ⟨y, { word := wordOf i, reads := [(a.toNat, 2)], act := h.active }, h.active, fun k => h.readN a.toNat 2 k, false⟩
  | .call y off => some ⟨y, linked, h.active, relative off.toInt, true⟩
  | .callReg y a => some ⟨y, { linked with reads := [(a.toNat, 2)] }, h.active, fun k => h.readN a.toNat 2 k, true⟩
  | .ret y a => some ⟨y, { word := wordOf i, reads := [(a.toNat, 2)], act := h.active }, h.active, fun k => h.readN a.toNat 2 k, false⟩
  | _ => none

/-- BRA, JMP, CALL and RET, in each form, whose lanes all go one way complete: where no lane takes the transfer the fragment goes on
at the next instruction, and where every lane of the fragment takes it to one aligned address below 2^48 the fragment goes on
there with an empty last-result file, a CALL's lanes holding the address after it in v0:v1 (R233, R236). -/
def Obligations.TransfersOfOneWayMoveThePc : Prop :=
  ∀ (i : Instr) (F : BranchForm) (s : State) (h : Here), s.shaped = true → s.here = some h → branchForm h i = some F →
    h.check F.uses = none →
    (F.takes = 0#1024 → h.frag.mask ≠ 0#1024 → ∃ t h', exec i s = .next t ∧ Local s t h h' ∧ h'.frag = h.frag.finish F.y ∧
      h'.team = { h.team with frags := h'.team.frags }) ∧
    (∀ dest < 2 ^ 48, dest % 4 = 0 → F.takes = h.frag.mask → (∃ k < h.team.e0, F.takes.has k) → (∀ k < h.team.e0, F.takes.has k → F.target k = dest) →
      ∃ t h', exec i s = .next t ∧ Local s t h h' ∧ h'.frag = { h.frag.finish F.y with pc := BitVec.ofNat 48 dest, x := [] } ∧
        h'.team = { h.team with v := h'.team.v, frags := h'.team.frags } ∧
        (∀ r < 0xD0, F.link = false ∨ 2 ≤ r → h'.team.reg r = h.team.reg r) ∧
        (F.link = true → ∀ k < h.team.e0, h.frag.mask.has k →
          h'.read 0 k = BitVec.ofNat 32 (h.frag.pc + 4#48).toNat ∧ h'.read 1 k = BitVec.ofNat 32 ((h.frag.pc + 4#48).toNat / 2 ^ 32)))

/-- A transfer with a target that is not a multiple of 4 traps ALIGN for those lanes, and else one with a target of 2^48 or more
traps BOUNDS for those; no lane moves (R233; that none moves is DEDUCED, log 39). -/
def Obligations.TransfersToBadAddressesTrap : Prop :=
  ∀ (i : Instr) (F : BranchForm) (s : State) (h : Here), s.shaped = true → s.here = some h → branchForm h i = some F → h.check F.uses = none →
    let bad := Mask.ofPred h.team.e0 fun k => F.takes.has k && F.target k % 4 != 0
    let far := Mask.ofPred h.team.e0 fun k => F.takes.has k && decide (2 ^ 48 ≤ F.target k)
    (bad ≠ 0#1024 ∨ far ≠ 0#1024) →
    ∃ t h' p, exec i s = .next t ∧ Local s t h h' ∧ p ∈ h'.team.faults ∧ h'.frag.park = .trap ∧ h'.frag.mask = h.frag.mask ∧
      p.cause = (if bad ≠ 0#1024 then 0x11 else 0x10) ∧ p.lanes = (if bad ≠ 0#1024 then bad else far) ∧ p.pc = h.frag.pc ∧
      h'.team.v = h.team.v ∧ h'.team.o = h.team.o

/-- A transfer whose lanes do not all go one way splits its fragment (R44, R235). A BRA that some lanes take and others do not: the lanes that
stay keep the entry and go on at the next instruction, and the others go on at the target in the lowest free entry, with the same mode and
join stack and an empty last-result file. With no entry to be had they wait in the parent's entry as a deferred set, under the mode
of the branch, one level of its join stack more, and with 16 levels there the branch traps ILLOP and nothing is split (R41, R43). BRA, JMP, CALL
and RET with several targets: every lane of the fragment is then in one whose lanes all go where it goes, in the parent's entry or a free one, and a
CALL's lanes hold the address after it in v0:v1 (R236). That an entry is the lowest free one, and what counts as a level of a serial split, are
the model's choices (logs 40, 112). -/
def Obligations.ABranchSplitsItsFragment : Prop :=
  (∀ (y : Bool) (cc : BitVec 2) (cond : BitVec 4) (off : BitVec 18) (F : BranchForm) (s : State) (h : Here) (n : Nat) (es : List Nat),
    s.shaped = true → s.here = some h → branchForm h (.bra y cc cond off) = some F → h.check F.uses = none →
    F.takes ≠ 0#1024 → h.frag.mask &&& ~~~F.takes ≠ 0#1024 → s.splitRoom h = (n, es) → h.frag.pc.toNat % 4 = 0 →
    let i := Instr.bra y cc cond off
    let goesTo (h' : Here) (f : Frag) : Prop := h'.frag.mask = h.frag.mask &&& ~~~F.takes ∧ h'.frag.pc = h.frag.nextPc ∧ h'.frag.x = [] ∧
      h'.frag.mode = h.frag.mode ∧ h'.frag.joins = h.frag.joins ∧
      f.mask = F.takes ∧ f.pc = h.frag.pc + BitVec.ofInt 48 (4 * off.toInt) ∧ f.x = [] ∧ f.mode = h.frag.mode ∧ f.joins = h.frag.joins ∧
      h'.team.v = h.team.v ∧ h'.team.o = h.team.o ∧ h'.team.cc = h.team.cc
    (∀ e rest, 0 < n → es = e :: rest → (h.team.frags.all fun f => f.entry != e) = true →
      ∃ t h' f, exec i s = .next t ∧ t.here = some h' ∧ h'.team.frag? e 0 = some f ∧ goesTo h' f ∧ SameBytes s t) ∧
    (n = 0 → h.levels < 16 → ∃ t h' f k, exec i s = .next t ∧ t.here = some h' ∧ h'.team.frag? s.cur.ent k = some f ∧ goesTo h' f ∧ SameBytes s t ∧
      (∀ g ∈ h.team.frags, g.entry = s.cur.ent → g.part < k) ∧ f.waits = true ∧ f.holds = false ∧ h'.frag.holds = h.frag.holds) ∧
    (n = 0 → 16 ≤ h.levels → ∃ t h' p, exec i s = .next t ∧ Local s t h h' ∧ h'.frag.mask = h.frag.mask ∧ h'.frag.park = .trap ∧
      p ∈ h'.team.faults ∧ p.cause = 0x01 ∧ p.detail = wordOf i ∧ p.pc = h.frag.pc)) ∧
  (∀ (i : Instr) (F : BranchForm) (s : State) (h : Here) (n : Nat) (es : List Nat), s.shaped = true → s.here = some h → branchForm h i = some F →
    h.check F.uses = none → (∀ k < h.team.e0, F.takes.has k → F.target k % 4 = 0 ∧ F.target k < 2 ^ 48) →
    let go (k : Nat) : Addr := if F.takes.has k then BitVec.ofNat 48 (F.target k) else h.frag.nextPc
    (∃ j k, j < h.team.e0 ∧ k < h.team.e0 ∧ h.frag.mask.has j ∧ h.frag.mask.has k ∧ go j ≠ go k) →
    s.splitRoom h = (n, es) → es.Nodup → (∀ e ∈ es, ∀ f ∈ h.team.frags, f.entry ≠ e) →
    ((F.takes.lanes h.team.e0).map F.target).eraseDups.length + (if F.takes = h.frag.mask then 0 else 1) ≤ min n es.length + 1 →
    ∃ t h', exec i s = .next t ∧ t.here = some h' ∧ SameBytes s t ∧
      (∀ k < h.team.e0, h.frag.mask.has k → ∃ f ∈ h'.team.frags, f.mask.has k ∧ f.pc = go k ∧ (f.entry = s.cur.ent ∨ f.entry ∈ es) ∧ f.mode = h.frag.mode ∧
        f.joins = h.frag.joins ∧ f.x = [] ∧ ∀ j < h.team.e0, f.mask.has j → h.frag.mask.has j ∧ go j = go k) ∧
      (∀ r < 0xD0, F.link = false ∨ 2 ≤ r → h'.team.reg r = h.team.reg r) ∧
      (F.link = true → ∀ k < h.team.e0, F.takes.has k →
        h'.read 0 k = BitVec.ofNat 32 (h.frag.pc + 4#48).toNat ∧ h'.read 1 k = BitVec.ofNat 32 ((h.frag.pc + 4#48).toNat / 2 ^ 32)))

/-- EXIT completes with nothing outstanding (and, on the control core, with no command queued or held): the active lanes leave the
fragment and the team's live lanes, a fragment without lanes is gone, and one with lanes goes on at the next instruction, its
idempotent region ended and in a consistency region of its own (R239); then the group and its partner settle. With an operation outstanding or a command queued the fragment parks,
to execute it again (R239). -/
def Obligations.ExitEndsTheActiveLanes : Prop :=
  ∀ (y : Bool) (s : State) (h : Here), s.shaped = true → s.here = some h → h.check { word := wordOf (.exit y), act := h.active } = none →
    ((h.quiet = false ∨ (h.team.isCore = true ∧ h.group.munit.queue ≠ [])) →
      ∃ t h', exec (.exit y) s = .next t ∧ Local s t h h' ∧ h'.frag = { h.frag with park := .drain } ∧ h'.team = { h.team with frags := h'.team.frags }) ∧
    (h.quiet = true → (h.team.isCore = true → h.group.munit.queue = [] ∧ h.group.munit.held = []) →
    ∃ u g' tm', exec (.exit y) s = .next (u.settlePair h.group.gid) ∧ u.group? s.cur.gid = some g' ∧ g'.team? s.cur.tid = some tm' ∧
      tm'.live = h.team.live &&& ~~~h.active ∧ tm'.v = h.team.v ∧ tm'.o = h.team.o ∧ SameBytes s u ∧
      (h.frag.mask &&& ~~~h.active = 0#1024 → tm'.frag? s.cur.ent s.cur.part = none) ∧
      (h.frag.mask &&& ~~~h.active ≠ 0#1024 → ∃ f, tm'.frag? s.cur.ent s.cur.part = some f ∧ f.mask = h.frag.mask &&& ~~~h.active ∧
        f.pc = h.frag.nextPc ∧ f.region = none ∧ f.seq = (h.team.seqCtr + 1) % 2 ^ 20 ∧ tm'.seqCtr = f.seq))

/-- BAR (of a team) and RDV complete by parking at their point with nothing outstanding, the idempotent region ended and for RDV the
consistency region too (that of BAR ends at its completion, R136), and FUSE at the address of the top join point by parking there (elsewhere it does nothing); a part
of a serial split that parks so hands its entry over (R43); then the group settles (R238, R240, R241). When every fragment that holds a join number
stands at its FUSE they merge, and not before: the merged fragment has all their lanes, the lowest entry, the mode and pc of that entry's first
part, a join stack one level lower, an empty last-result file and a new consistency region (R40, R61, R78, R136; that the file is empty after a single
arrival too is the model's choice, log 38). -/
def Obligations.ArrivalsPark : Prop :=
  (∀ (y : Bool) (i : Instr) (p : Park) (s : State) (h : Here), s.shaped = true → s.here = some h →
    ((∃ n : BitVec 2, i = .bar y n ∧ p = .bar n.toNat ∧ h.team.isCore = false) ∨ (i = .rdv y ∧ p = .rdv)) →
    h.quiet = true → h.mixed p = false →
    ∃ u h', exec i s = .next (u.settle h.group.gid) ∧ Local s u (h.parkedAt p) h' ∧ h'.frag.park = p ∧ h'.frag.marked = y ∧ h'.frag.pc = h.frag.nextPc ∧
      h'.frag.region = none ∧ h'.frag.mask = h.frag.mask ∧
      h'.team = { h.team with frags := h'.team.frags, seqCtr := if p = .rdv then (h.team.seqCtr + 1) % 2 ^ 20 else h.team.seqCtr }) ∧
  (∀ (y : Bool) (s : State) (h : Here), s.shaped = true → s.here = some h →
    let k := if (h.frag.joins.head?.map (·.addr)) = some h.frag.pc then h.parkedAt .fuse else h
    ∃ u h', exec (.fuse y) s = .next (u.settle h.group.gid) ∧ Local s u k h' ∧ h'.team = { h.team with frags := h'.team.frags } ∧
      h'.frag = k.frag.finish y) ∧
  (∀ (clock num : Nat) (t : Team) (first : Frag),
    let stands (f : Frag) : Prop := f.park = .fuse ∧ (f.joins.head?.map (·.num)) = some num
    (∀ f ∈ t.frags, f.park = .fuse → stands f) →
    (t.fuseReady num = false → t.settleFuse clock = t) ∧
    (t.fuseReady num = true → first ∈ t.frags → stands first →
      (∀ f ∈ t.frags, stands f → f = first ∨ first.entry < f.entry ∨ (first.entry = f.entry ∧ first.part < f.part)) →
      ∃ m, m ∈ (t.settleFuse clock).frags ∧ (∀ f ∈ (t.settleFuse clock).frags, f = m ∨ ∃ g ∈ t.frags, ¬stands g ∧ f = { g with pusher := f.pusher }) ∧
        (∀ g ∈ t.frags, ¬stands g → ∃ f ∈ (t.settleFuse clock).frags, f = { g with pusher := f.pusher }) ∧
        m.entry = first.entry ∧ m.part = first.part ∧ m.mode = first.mode ∧ m.pc = first.pc ∧ m.joins = first.joins.tail ∧ m.x = [] ∧
        (∀ k, m.mask.has k = true ↔ ∃ f ∈ t.frags, stands f ∧ f.mask.has k = true) ∧ m.seq = (t.seqCtr + 1) % 2 ^ 20 ∧
        (t.settleFuse clock).v = t.v ∧ (t.settleFuse clock).o = t.o ∧ (t.settleFuse clock).cc = t.cc))

/-- A barrier at which every team of the group has arrived or has exited, with all their accesses performed, releases them:
no fragment stays parked there, and the barrier's generation advances; while one is missing the barrier only records the arrivals
(R45, R240). -/
def Obligations.BarriersReleaseWhenAllHaveArrived : Prop :=
  ∀ (g : Group) (clock n : Nat), n < g.barriers.length →
    let g' := g.settleBar true clock n
    ((g.arrivals (.bar n) ≠ 0#64 ∧ ∀ t ∈ g.teams, t.live = 0#1024 ∨ (t.frags ≠ [] ∧ ∀ f ∈ t.frags, f.park = .bar n)) →
      (∀ t ∈ g'.teams, ∀ f ∈ t.frags, f.park ≠ .bar n) ∧ (g'.barriers[n]?.map (·.gen)) = (g.barriers[n]?.map fun b => b.gen + 1)) ∧
    ((∃ t ∈ g.teams, t.live ≠ 0#1024 ∧ (t.frags = [] ∨ ∃ f ∈ t.frags, f.park ≠ .bar n)) →
      g'.teams = g.teams ∧ (g'.barriers[n]?.map (·.gen)) = g.barriers[n]?.map (·.gen))

/-! ### Traps -/

/-- TRAP completes (R248): with an active lane it raises SWTRAP with its code for the active lanes, so the fragment parks with the trap
pending and its pc, where the handler resumes it, at the next instruction, and the record of that trap names the lowest active lane, no
address and the code; with none it only advances the pc. -/
def Obligations.TrapRaisesItsSoftwareTrap : Prop :=
  ∀ (y : Bool) (code : BitVec 24) (s : State) (h : Here), s.shaped = true → s.here = some h →
    h.check { word := wordOf (.trap y code), act := h.active } = none →
    ∃ t h', exec (.trap y code) s = .next t ∧ Local s t h h' ∧ h'.team.v = h.team.v ∧ h'.team.o = h.team.o ∧ h'.team.cc = h.team.cc ∧
      (h.active = 0#1024 → h'.frag = h.frag.finish y ∧ h'.team = { h.team with frags := h'.team.frags }) ∧
      (h.active ≠ 0#1024 → h'.frag.park = .trap ∧ h'.frag.pc = h.frag.nextPc ∧ ∃ p ∈ h'.team.faults,
        p.cause = 0x40 ∧ p.lanes = h.active ∧ p.pc = h.frag.pc ∧ ∀ slot more,
          let flt := fltWords slot h.team.e0 p p.lanes more
          flt[3]? = some (BitVec.ofNat 32 (h.active.lowest h.team.e0)) ∧ flt[4]? = some 0#32 ∧ flt[5]? = some 0#32 ∧
            flt[7]? = some (code.zeroExtend 32))

/-- The words with an unassigned opcode are those of slots 00H, 13H to 17H and 76H to 7FH, whatever their other bits, and such a word is
executed, on a team and on the control core alike, by trapping ILLOP at its address, with the word in its record (R207). That its lanes are
those that act, whatever the guard, is the model's choice (log 13). -/
def Obligations.UnassignedOpcodesTrapIllop : Prop :=
  ∀ (w : Word), let op := w.toNat / 2 ^ 24 % 128
    (decode w = .ok (.unassignedOpcode w) ↔ op = 0 ∨ (0x13 ≤ op ∧ op ≤ 0x17) ∨ 0x76 ≤ op) ∧
    ∀ (s : State) (h : Here), s.shaped = true → s.here = some h → ∃ t h', exec (.unassignedOpcode w) s = .next t ∧ Local s t h h' ∧ h'.frag.park = .trap ∧ h'.frag.pc = h.frag.nextPc ∧
      h'.team.v = h.team.v ∧ h'.team.o = h.team.o ∧ h'.team.cc = h.team.cc ∧
      ∃ p ∈ h'.team.faults, p.cause = 0x01 ∧ p.lanes = h.frag.acting ∧ p.detail = w ∧ p.pc = h.frag.pc

/-- The first register check that fails traps: of an instruction of the integer, move, float or long-latency tables, a branch, an instruction
that accesses memory, a window or an object, or a matrix instruction, the fragment parks with that check's trap pending for its lanes, at the
instruction, and no register, flag or byte changes; a matrix instruction of a vector team has a check that fails with ILLOP (R186), and so have LDS, STS and
ATOMS on the control core, where BAR, FORK, ACQUIRE and IREGION trap ILLOP too (R85, R88, R208). -/
def Obligations.TheFirstFailingCheckTraps : Prop :=
  (∀ (i : Instr) (u : Uses) (tr : Trap) (s : State) (h : Here), s.shaped = true → s.here = some h →
    ((∃ F, aluForm i = some F ∧ u = F.uses i h) ∨ (∃ F, floatForm i = some F ∧ u = h.fpUses (wordOf i) F.illop true F.d F.reads) ∨
      (∃ F, moveForm h i = some F ∧ u = F.uses) ∨ (∃ F, longForm h i = some F ∧ u = F.uses) ∨ (∃ F, branchForm h i = some F ∧ u = F.uses) ∨
      (∃ F, accessForm h i = some F ∧ u = F.uses) ∨ (∃ F, objectForm h i = some F ∧ u = F.uses) ∨
      (∃ F, matrixForm s h i = some F ∧ u = { F.uses with illop := F.uses.illop || !h.team.isCore, act := h.active, long := true })) →
    h.check u = some tr →
    ∃ t h' p, exec i s = .next t ∧ Local s t h h' ∧ h'.frag = { h.frag.finish false with park := .trap } ∧ p ∈ h'.team.faults ∧
      p.cause = tr.cause ∧ p.detail = tr.detail ∧ p.pc = h.frag.pc ∧ (∀ m, tr.lanes = some m → p.lanes = m) ∧
      (tr.lanes = none → u.act ≠ 0#1024 → p.lanes = u.act) ∧
      h'.team = { h.team with nextOp := h.team.nextOp + 1, faults := h'.team.faults, frags := h'.team.frags }) ∧
  (∀ (i : Instr) (s : State) (h : Here), s.shaped = true → s.here = some h →
    ((∃ F, matrixForm s h i = some F) ∧ h.team.isCore = false ∨ (i matches .bar _ _ | .fork _ _ _ | .acquire _ | .iregion _ | .lds .. | .sts .. | .atoms ..) ∧ h.team.isCore = true) →
    ∃ t h' p, exec i s = .next t ∧ Local s t h h' ∧ h'.frag = { h.frag.finish false with park := .trap } ∧ p ∈ h'.team.faults ∧
      p.cause = 0x01 ∧ p.detail = wordOf i ∧ p.pc = h.frag.pc ∧
      h'.team = { h.team with nextOp := h.team.nextOp + 1, faults := h'.team.faults, frags := h'.team.frags })

/-- The order of the register checks (R88): a reserved field value, then an illegal specifier, then a register that the counts do
not hold, then an undeclared window, then a computed register number out of bounds (R299, R300), then a pending or locked register,
named and then computed, then a poisoned one, then one G register too many. -/
def Obligations.RegisterChecksStandInTheirOrder : Prop :=
  ∀ (h : Here) (u : Uses),
    let fields := u.writes.map (fun f => (f, true)) ++ u.reads.map (fun f => (f, false))
    let illreg := ∃ f ∈ fields, fieldOk f.1.1 f.1.2 f.2 u.long = false
    let bound := ∃ f ∈ fields, ∃ r ∈ fieldWords f.1, (r < 0xC0 ∧ h.team.vCount ≤ r) ∨ (0xC0 ≤ r ∧ h.team.oCount ≤ r - 0xC0)
    let undeclared := ∃ w, u.window = some w ∧ ∀ x ∈ h.group.windows, x.num ≠ w
    (u.illop = true → ∃ t, h.check u = some t ∧ t.cause = 0x01 ∧ t.detail = u.word) ∧
    (u.illop = false → illreg → ∃ t, h.check u = some t ∧ t.cause = 0x02 ∧ t.detail = u.word) ∧
    (u.illop = false → ¬illreg → bound → ∃ t, h.check u = some t ∧ t.cause = 0x03 ∧ t.detail.toNat < 0x100) ∧
    (u.illop = false → ¬illreg → ¬bound → undeclared → ∃ t w, u.window = some w ∧ h.check u = some t ∧ t.cause = 0x03 ∧ t.detail = BitVec.ofNat 32 (0x100 + w)) ∧
    (u.illop = false → ¬illreg → ¬bound → ¬undeclared → ∀ x, u.bound = some x → ∃ t, h.check u = some t ∧ t.cause = x.cause ∧ t.lanes = x.lanes) ∧
    (u.illop = false → ¬illreg → ¬bound → ¬undeclared → u.bound = none → ∀ r, h.hazard u = some r → ∃ t, h.check u = some t ∧ t.cause = 0x05) ∧
    (u.illop = false → ¬illreg → ¬bound → ¬undeclared → u.bound = none → h.hazard u = none → ∀ x, u.busy = some x →
      ∃ t, h.check u = some t ∧ t.cause = x.cause ∧ t.lanes = x.lanes) ∧
    (u.illop = false → ¬illreg → ¬bound → ¬undeclared → u.bound = none → h.hazard u = none → u.busy = none → ∀ q, u.poison.getD (h.poisonRead u) = some q →
      ∃ t, h.check u = some t ∧ t.cause = 0x06 ∧ t.lanes = some q.2) ∧
    (u.illop = false → ¬illreg → ¬bound → ¬undeclared → u.bound = none → h.hazard u = none → u.busy = none → u.poison.getD (h.poisonRead u) = none →
      let excess := h.team.isCore = false ∧ u.act ≠ 0#1024 ∧ h.team.newG u.grow ≠ [] ∧ h.team.gMax < h.team.gCount + (h.team.newG u.grow).length
      (excess → ∃ t, h.check u = some t ∧ t.cause = 0x04) ∧ (¬excess → h.check u = none))

/-- TRAP_DELIVERY to a fragment at U whose launch has a handler: the fragment goes to TRAPVEC at S with the trap's lanes, mode 0, an
empty join stack and an empty last-result file; its frame keeps its mask, join stack, mode and condition codes with PC_fault and
PC_resume, and the record holds the cause, the address of the instruction with the slot of the team, the lowest lane, the address, the summary
of the lanes and the detail of the fault (R351, R353, R354). A fault that holds deferred lanes of the fragment alone takes no trap: the
fragment performs the instruction for them (R356). That a fault of lanes of several fragments is delivered to each for its own lanes is the model's
choice (log 25). -/
def Obligations.TrapDeliveryEntersTheHandler : Prop :=
  ∀ (s : State) (a : AgentId) (g : Group) (tm : Team) (f : Frag) (p : PendFault) (l : Launch), s.shaped = true →
    s.agent? a = some (g, tm, f) → tm.dueTrap f = some p → s.launchOf g = some l → l.trapvec ≠ 0 → f.priv = false → p.cause ≠ 0x41 →
    (p.lanes &&& f.mask = 0#1024 → ∃ u g' tm' f', exec (.trapDelivery a) s = .next (u.settleAll g.launch) ∧ u.agent? a = some (g', tm', f') ∧
      f'.pc = p.pc ∧ f'.replay = some f.pc ∧ f'.only = some (p.deferred &&& f.mask) ∧ f'.mask = f.mask ∧ f'.priv = false ∧ SameBytes s u ∧
      u.launches = s.launches) ∧
    (p.lanes &&& f.mask ≠ 0#1024 →
    ∃ u g' tm' f' r, exec (.trapDelivery a) s = .next (u.settleAll g.launch) ∧ u.agent? a = some (g', tm', f') ∧ r ∈ tm'.frames ∧
      f'.pc = BitVec.ofNat 48 l.trapvec ∧ f'.priv = true ∧ f'.mode = 0#24 ∧ f'.joins = [] ∧ f'.x = [] ∧ f'.park = .none ∧
      f'.mask = p.lanes &&& f.mask ∧ f'.frame = some r.id ∧
      r.mask = f.mask ∧ r.joins = f.joins ∧ r.mode = f.mode ∧ r.cc = tm.cc ∧ r.pcFault = p.pc ∧ r.pcResume = f.pc ∧
      (r.flt[0]?.map fun w => w.toNat % 256) = some (p.cause % 256) ∧ r.flt[1]? = some (BitVec.ofNat 32 p.pc.toNat) ∧
      r.flt[2]? = some (BitVec.ofNat 32 (p.pc.toNat / 2 ^ 32 * 65536 + g.slotOf tm)) ∧
      r.flt[3]? = some (BitVec.ofNat 32 ((p.lanes &&& f.mask).lowest tm.e0)) ∧ r.flt[6]? = some (p.lanes &&& f.mask).summary ∧
      r.flt[4]? = some (BitVec.ofNat 32 p.addr) ∧ r.flt[5]? = some (BitVec.ofNat 32 (p.addr / 2 ^ 32)) ∧ r.flt[7]? = some p.detail ∧
      tm'.v = tm.v ∧ tm'.o = tm.o ∧ tm'.cc = tm.cc ∧ SameBytes s u ∧
      (u.launchOf g).map (·.traps) = some (min (l.traps + 1) (2 ^ 32 - 1)))

/-- A trap at S, or of a launch without a handler, ends the launch: it is stopping with status 3 or 2 and the record of the trap, FLT0 to
FLT7, and no fragment of the teams and contexts of its groups is left (R250, R353, R354, R358). That the end record's RESUME is the address at
which the fragment would go on is the model's choice (log 31). -/
def Obligations.ATrapWithoutAHandlerEndsTheLaunch : Prop :=
  ∀ (s : State) (a : AgentId) (g : Group) (tm : Team) (f : Frag) (p : PendFault) (l : Launch), s.shaped = true →
    s.agent? a = some (g, tm, f) → tm.dueTrap f = some p → s.launchOf g = some l → p.cause ≠ 0x41 → (f.priv = true ∨ l.trapvec = 0) →
    p.lanes &&& f.mask ≠ 0#1024 → l.phase ≠ .stopping → l.phase ≠ .ended →
    ∃ (u : State) (l' : Launch), exec (.trapDelivery a) s = .next (u.settleAll g.launch) ∧ u.launchOf g = some l' ∧ l'.phase = .stopping ∧
      l'.status = (if f.priv then 3 else 2) ∧ (∃ more, l'.deciding = some (fltWords (g.slotOf tm) tm.e0 p (p.lanes &&& f.mask) more, f.pc.toNat)) ∧
      ∀ g' ∈ u.groups, g'.launch = g.launch → ∀ t ∈ g'.allTeams, t.frags = [] ∧ t.live = 0#1024

/-- TRET in each form completes in a handler: every lane of the fragment chooses that form, and the fragment parks until the other
lanes of the handler have chosen or exited; then the group settles (R249, R357). That a part of a serial split hands its entry over while it
is parked there is the model's reading (log 11). -/
def Obligations.TretChoosesForItsLanes : Prop :=
  ∀ (y : Bool) (i : Instr) (s : State) (h : Here) (r : Frame), s.shaped = true → s.here = some h →
    i ∈ [.tretRetry y, .tretSkip y, .tretTerm y] → h.frag.frame = some r.id → h.team.frame? r.id = some r →
    ∃ u h' r', exec i s = .next (u.settle h.group.gid) ∧ Local s u (h.parkedAt .tret) h' ∧ h'.team.frame? r.id = some r' ∧ h'.frag.park = .tret ∧
      h'.frag.mask = h.frag.mask ∧ h'.frag.pc = h.frag.nextPc ∧
      r'.retry = (if i = .tretRetry y then r.retry ||| h.frag.mask else r.retry) ∧
      r'.skip = (if i = .tretSkip y then r.skip ||| h.frag.mask else r.skip) ∧
      r'.term = (if i = .tretTerm y then r.term ||| h.frag.mask else r.term) ∧
      h'.team = { h.team with frags := h'.team.frags, frames := h'.team.frames }

/-- The end of a handler's frame (R249, R250, R355 to R357): the interrupted fragment is back with its live lanes, its join stack and
mode, at U, with an empty last-result file and the condition codes that its lanes had; without a lane that retries or was
deferred, and always after an advisory, it goes on at PC_resume, and otherwise the instruction at PC_fault is performed once more
for those lanes alone. That its consistency region is that of the first of the handler's fragments is the model's choice (log 113). -/
def Obligations.TheEndOfAFrameRestoresTheFragment : Prop :=
  ∀ (clock : Nat) (t : Team) (r : Frame), t.cc.length = t.e0 → r.cc.length = t.e0 → r.held = false → r.mask &&& t.live ≠ 0#1024 →
    (∀ f ∈ t.frags, f.entry = r.entry → f.part = r.part → f.frame = some r.id) →
    let again := if (r.flt.headD 0#32).toNat % 256 = 0x41 then 0#1024 else (r.retry ||| r.deferred) &&& (r.mask &&& t.live)
    ∃ f, (t.endFrame clock r).frag? r.entry r.part = some f ∧ f.mask = r.mask &&& t.live ∧ f.joins = r.joins ∧ f.mode = r.mode ∧ f.priv = false ∧
      f.x = [] ∧ f.frame = none ∧ (∀ k, (t.frags.find? fun k => k.frame == some r.id) = some k → f.seq = k.seq) ∧
      (again = 0#1024 → f.pc = r.pcResume ∧ f.only = none ∧ f.replay = none) ∧
      (again ≠ 0#1024 → f.pc = r.pcFault ∧ f.only = some again ∧ f.replay = some r.pcResume) ∧
      (∀ k < t.e0, (t.endFrame clock r).cc[k]? = if r.mask.has k then r.cc[k]? else t.cc[k]?) ∧
      (∀ q ∈ (t.endFrame clock r).frames, q.id ≠ r.id) ∧ (t.endFrame clock r).v = t.v ∧ (t.endFrame clock r).o = t.o

/-! ### Memory instructions -/

/-- LD, LDV, ST, STV, ATOM and LDRB complete, where the checks pass, every element is in range and aligned, every line translates and
(for ATOM) the scope is within the ceiling: an operation is in flight for the active lanes, with requests that name, for each
element of each lane that is performed, its line, its offset and its bytes, and nothing else; no byte has changed (R125, R136,
R305 to R307, R310). Where an element is out of range, misaligned, or forbidden by the record, BOUNDS, ALIGN or PERM, the first of these that holds, is recorded
for its lanes and nothing is performed for any lane (R124, R85). That every request has still to arrive at the Landing, those to the own die too, is
the model's choice (log 43). -/
def Obligations.MemoryInstructionsPutTheirAccessesInFlight : Prop :=
  (∀ (i : Instr) (F : AccessForm) (s : State) (h : Here), s.shaped = true → s.here = some h → accessForm h i = some F → F.buf.window = false →
    F.base.check F.uses = none → (∃ k < h.team.e0, h.active.has k) → ¬F.good → F.StopsAtItsElements i s h) ∧
  ∀ (i : Instr) (F : AccessForm) (s : State) (h : Here) (place : Nat → Place), s.shaped = true → s.here = some h →
    accessForm h i = some F → F.buf.window = false → F.base.check F.uses = none → F.uses.act ≠ 0#1024 → h.frag.lines = none →
    F.good → F.translates s place → F.scope ≤ (s.vd h.group.vd).ceiling →
    ∃ t h' o new, exec i s = .next t ∧ Sent s t F.base F.base h' F.y F.uses o F.action new ∧
      (∀ k ∈ F.lanes, ∀ q e, (F.elems k)[q]? = some e → ∃ r ∈ new, ∃ x ∈ r.lanes, x.lane = k ∧ r.va + x.off = F.buf.place e ∧
        x.len = 2 ^ F.buf.log2 ∧ x.data = F.data k q ∧ (F.kind = .read → x.at_ = 4 * q)) ∧
      (∀ r ∈ new, r.place = place (r.va / 128) ∧ r.landed = false ∧ ∀ x ∈ r.lanes, x.lane ∈ F.lanes ∧
        ∃ q e, (F.elems x.lane)[q]? = some e ∧ r.va + x.off = F.buf.place e ∧ x.data = F.data x.lane q)

/-- LDS, STS and ATOMS complete, where the checks pass and every element is in the window's extent and aligned: an operation is in
flight with a request for each 4-byte word of each element in the group's scratchpad; no byte has changed (R127, R137, R305,
R307). Where an element is out of the extent or misaligned, BOUNDS or ALIGN is recorded for its lanes and nothing is performed (R124). That these requests
pass no Landing is the model's choice (log 43). -/
def Obligations.WindowInstructionsPutTheirWordsInFlight : Prop :=
  (∀ (i : Instr) (F : AccessForm) (s : State) (h : Here), s.shaped = true → s.here = some h → accessForm h i = some F → F.buf.window = true →
    F.base.check F.uses = none → (∃ k < h.team.e0, h.active.has k) → ¬F.good → F.StopsAtItsElements i s h) ∧
  ∀ (i : Instr) (F : AccessForm) (s : State) (h : Here), s.shaped = true → s.here = some h →
    accessForm h i = some F → F.buf.window = true → F.base.check F.uses = none → F.uses.act ≠ 0#1024 → h.frag.lines = none →
    F.good → F.scope ≤ (s.vd h.group.vd).ceiling →
    ∃ t h' o new, exec i s = .next t ∧ Sent s t F.base F.base h' F.y F.uses o F.action new ∧
      (∀ k ∈ F.lanes, ∀ q e, (F.elems k)[q]? = some e → ∀ j, 4 * j < 2 ^ F.buf.log2 → ∃ r ∈ new, ∃ x ∈ r.lanes, x.lane = k ∧
        r.place.addr + x.off = F.buf.place e + 4 * j ∧ x.len = min 4 (2 ^ F.buf.log2 - 4 * j) ∧
        x.data = (match F.action with | .atomic .. => F.data k q | _ => ((F.data k q).drop (4 * j)).take 4) ∧
        (F.kind = .read → x.at_ = 4 * q + 4 * j)) ∧
      (∀ r ∈ new, r.place.space = .scratch h.group.gid ∧ r.landed = true ∧ ∀ x ∈ r.lanes, x.lane ∈ F.lanes)

/-- PRFM, DCFLUSH, MKRB and FENCE complete (R143, R144, R309, R311, R312, R341). A hint and a flush never trap on an address and
change no register and no byte: their requests are for active lanes. MKRB makes the record of the lowest active lane's pairs. FENCE
ends both regions; with nothing to wait for it goes on at once (an acquire of cluster scope or wider empties the read-only cache),
a full fence with a write under way parks until it is performed, and one that acquires parks while a load has not returned. -/
def Obligations.HintsRecordsAndFencesComplete : Prop :=
  (∀ (y : Bool) (b k : BitVec 4) (n : BitVec 8) (i : Instr) (act : Action) (s : State) (h : Here), s.shaped = true → s.here = some h →
    ((i = .prfm y b k n ∧ act = .prefetch) ∨ (i = .dcflush y b k n ∧ act = .flush)) →
    h.check { word := wordOf i, reads := [(n.toNat, 1)], brec := some b.toNat, act := h.active } = none →
    ∃ t h' new, exec i s = .next t ∧ t.here = some h' ∧ SameBytes s t ∧
      t = { s with groups := t.groups, fresh := t.fresh, oracle := t.oracle, tlb := t.tlb, walkCache := t.walkCache, reqs := s.reqs ++ new, nextReq := t.nextReq } ∧
      h'.team = { h.team with nextOp := h'.team.nextOp, frags := h'.team.frags } ∧
      h'.frag = { h.frag.finish y with hist := h'.frag.hist } ∧
      (∀ r ∈ new, r.action = act ∧ ∀ x ∈ r.lanes, h.active.has x.lane) ∧ (act = .prefetch → modeHint h.frag.mode = 3 → new = [])) ∧
  (∀ (y : Bool) (d : BitVec 4) (a b : BitVec 8) (s : State) (h : Here), s.shaped = true → s.here = some h →
    h.check { word := wordOf (.mkrb y d a b), reads := [(a.toNat, 2), (b.toNat, 2)], bdst := some d.toNat, act := h.active,
              poison := h.oncePoison [(a.toNat, 2), (b.toNat, 2)] } = none →
    let t := h.active.lowest h.team.e0
    let r := BitVec.ofNat 128 (h.readN a.toNat 2 t + 2 ^ 64 * h.readN b.toNat 2 t)
    (h.active ≠ 0#1024 → recLog2 r ≤ 4 ∧ recSwz r ≤ 3) →
    ∃ u h', exec (.mkrb y d a b) s = .next u ∧ Local s u h h' ∧ h'.frag = h.frag.finish y ∧
      h'.team = { h.team with b := if h.active = 0#1024 then h.team.b else h.team.b.set d.toNat r, frags := h'.team.frags }) ∧
  (∀ (y : Bool) (wack : BitVec 1) (kind : BitVec 2) (scope : BitVec 3) (s : State) (h : Here), s.shaped = true → s.here = some h →
    scope ≠ 7#3 → scope.toNat ≤ (s.vd h.group.vd).ceiling →
    ∃ t h', exec (.fence y wack kind scope) s = .next t ∧ t.here = some h' ∧ SameBytes s t ∧ h'.frag.pc = h.frag.nextPc ∧
      h'.frag.region = none ∧ h'.frag.mask = h.frag.mask ∧
      h'.team = { h.team with seqCtr := (h.team.seqCtr + 1) % 2 ^ 20, frags := h'.team.frags } ∧
      ((∀ id ∈ h.frag.hist, s.unsettled id = false) → (kind ≠ 1#2 → h.team.loadsOut h.frag = false) → h'.frag.park = (h.frag.finish y).park ∧
        (kind ≠ 1#2 → 2 ≤ scope.toNat → ∀ c ∈ t.roc, c.cluster ≠ h.group.cluster)) ∧
      (∀ r ∈ s.reqs, kind = 3#2 → r.root ∈ h.frag.hist → r.action = .write → (s.reqs.find? fun q => q.root == r.root) = some r →
        ∃ waits acks acq sc, h'.frag.park = .fence waits acks acq sc ∧ r.root ∈ waits) ∧
      (kind ≠ 1#2 → h.team.loadsOut h.frag = true → ∃ waits acks sc, h'.frag.park = .fence waits acks true sc))

/-- QCLAIM, QWRITE, QPOST and both forms of AWAITF, RELSLOT and RDPROM complete, where the checks pass and the object is long enough,
aligned and (for those that write) not read-only, and its line and its race metadata translate: an operation is in flight with requests to the object for
its lanes, AWAITF parks the fragment with it, and no byte has changed (R304, R313 to R319). -/
def Obligations.ObjectInstructionsSendTheirRequests : Prop :=
  ∀ (i : Instr) (F : ObjectForm) (s : State) (h : Here) (p : Place), s.shaped = true → s.numbered = true → s.here = some h →
    objectForm h i = some F → F.base.check F.uses = none → F.uses.act ≠ 0#1024 →
    F.obj.long = true → F.obj.addr % F.obj.align = 0 →
    (F.obj.buf.window = false → F.writes = true → recRo (h.bufRecord F.obj.buf.num) = false ∧ recPub (h.bufRecord F.obj.buf.num) = false) →
    (if F.obj.buf.window then p = { space := .scratch h.group.gid, addr := F.obj.addr, keyid := 0, dual := none }
      else s.lineAnswer h.group.cluster h.group.vd F.obj.addr F.obj.addr F.kind = .ok p) → F.metadataTranslates s →
    ∃ t h' o new, exec i s = .next t ∧ Sent s t F.base (if F.park o.id = .none then F.base else F.base.parkedAt (F.park o.id)) h' F.y F.uses o F.action new ∧
      (∀ r ∈ new, r.place = p ∧ r.va = (if F.obj.buf.window then F.obj.buf.num else F.obj.addr)) ∧
      ∀ l ∈ F.lanes, ∃ r ∈ new, ∃ x ∈ r.lanes, x.lane = l.1 ∧ x.data = l.2

/-- SEAL in both forms and PUBLISH complete (R320 to R322): with an operation in flight that reads the record at an aligned address,
frees the handle, or flips the dual-backed range once the fragment's earlier accesses are performed. That the condition code which a SEAL
writes may be pending at its issue is the model's choice (log 8). -/
def Obligations.SealAndPublishSendTheirRequests : Prop :=
  (∀ (y : Bool) (d a : BitVec 8) (s : State) (h : Here) (p : Place), s.shaped = true → s.here = some h →
    let u : Uses := { word := wordOf (.seal y d a), writes := [(d.toNat, 1)], reads := [(a.toNat, 2)], long := true, ccWrite := h.ccw,
                      act := h.active, grow := growOf h.oneShape d.toNat 1, poison := h.oncePoison [(a.toNat, 2)] }
    let addr := h.readN a.toNat 2 (h.active.lowest h.team.e0)
    h.check { u with ccWrite := none } = none → h.active ≠ 0#1024 → addr % 32 = 0 → addr + 32 ≤ 2 ^ 48 →
    s.lineAnswer h.group.cluster h.group.vd addr addr .read = .ok p →
    ∃ t h' o new, exec (.seal y d a) s = .next t ∧ Sent s t h h h' y u o .seal new ∧
      ∃ r ∈ new, r.place = p ∧ ∃ x ∈ r.lanes, r.va + x.off = addr ∧ x.len = 32 ∧ x.lane = h.active.lowest h.team.e0) ∧
  (∀ (y : Bool) (a : BitVec 8) (s : State) (h : Here), s.shaped = true → s.here = some h →
    let u : Uses := { word := wordOf (.sealRel y a), reads := [(a.toNat, 1)], act := h.active, poison := h.oncePoison [(a.toNat, 1)] }
    h.check u = none → h.active ≠ 0#1024 →
    ∃ t h' o r, exec (.sealRel y a) s = .next t ∧ Sent s t h h h' y u o (.sealRelease (h.first a)) [r]) ∧
  (∀ (y : Bool) (b : BitVec 4) (s : State) (h : Here) (p : Place), s.shaped = true → s.numbered = true → s.here = some h →
    let u := (h.descAt b).uses { word := wordOf (.publish y b), act := h.active }
    let r := h.bufRecord b.toNat
    h.check u = none → h.active ≠ 0#1024 → 0 < recExtent r → recPub r = true → s.lineAnswer h.group.cluster h.group.vd (recBase r) (recBase r) .read = .ok p →
    p.dual.isSome = true → 5 ≤ (s.vd h.group.vd).ceiling →
    ∃ t h' o q, exec (.publish y b) s = .next t ∧ Sent s t h.endRegions h.endRegions h' y u o .publish [q] ∧ q.place = p ∧
      ∀ id ∈ h.frag.hist, s.outstanding id = true → id ∈ q.waits)

/-! ### Requests at their homes -/

/-- LINE_REQUEST of a request that is ready, without a race check, whose line can be read and was stored under the key that it
translates to, in a package where no memory has failed: all the requests of its instruction to its line are performed in the one
step, and are in flight no more; a store puts the bytes of all their lanes at their offsets, of lanes that write one byte the last
standing, and changes no other byte; a load, the only request of its instruction to its line, gives its operation the value of its
bytes, extended as TYPE says, or those that the read-only cache holds; and an atomic of one lane, the only one to its line, returns
the old word and stores the new one (R123, R126, R131, R137, R305, R307). -/
def Obligations.RequestsActAtTheirHomes : Prop :=
  ∀ (s : State) (r : Req) (g : Group) (tm : Team) (o : Out), s.shaped = true → s.canonical = true → (s.reqs.find? fun q => q.id == r.id) = some r → s.reqReady r = true →
    r.check = none → r.place.dual = none → s.worldDenies r.vd r.place = false → s.unhurt = true → s.wrongKey r.place = false →
    s.group? r.gid = some g → g.team? r.tid = some tm → (tm.outs.find? fun x => x.id == r.op) = some o → o.kind = .memory →
    (∀ gid, r.place.space = .scratch gid → (s.group? gid).isSome = true) →
    let old (a : Nat) : Byte := s.byteAt r.place.space a
    let bytes (x : LaneAccess) : List Byte := (List.range x.len).map fun k => old (r.place.addr + x.off + k)
    (r.action = .write → (r.place.space = .device → (s.region (regionOf r.place.addr)).state ≠ .retired) →
      (∀ q ∈ s.together r, q.place = r.place ∧ q.check = none ∧ q.vd = r.vd) →
      ∃ u : State, exec (.lineRequest r.id) s = .next (u.settle r.gid) ∧ (∀ q ∈ u.reqs, ∀ x ∈ s.together r, q.id ≠ x.id) ∧
        (∀ a, u.byteAt r.place.space a = ((s.together r).flatMap (·.lanes)).foldl (fun b x =>
          if r.place.addr + x.off ≤ a ∧ a < r.place.addr + x.off + x.data.length then x.data.getD (a - (r.place.addr + x.off)) 0#8 else b) (old a)) ∧
        ∀ sp a, sp ≠ r.place.space → u.byteAt sp a = s.byteAt sp a) ∧
    (s.together r = [r] →
    (∀ sg, r.action = .read sg → s.reqSyndrome r.place = none →
      ∃ (u : State) (g' : Group) (tm' : Team) (o' : Out), exec (.lineRequest r.id) s = .next (u.settle r.gid) ∧ (∀ q ∈ u.reqs, q.id ≠ r.id) ∧ SameBytes s u ∧
        u.group? r.gid = some g' ∧ g'.team? r.tid = some tm' ∧ (tm'.outs.find? fun x => x.id == r.op) = some o' ∧
        ∀ k, assocGet o'.data k 0 = assocGet o.data k 0 +
          ((r.lanes.filter fun x => (o.targets tm.e0 r.once x.lane).contains k).map fun x => extended sg x.at_
            (match s.roHit r r.place with | some bs => (bs.drop x.off).take x.len | none => bytes x)).sum) ∧
    (∀ k type rnd ftz x, r.action = .atomic k type rnd ftz → r.lanes = [x] → x.len = 4 → r.once = false → s.reqSyndrome r.place = none →
      (r.place.space = .device → (s.region (regionOf r.place.addr)).state ≠ .retired) → assocGet o.data x.lane 0 = 0 →
      let new := (atomicNew k type rnd ftz (leValue (bytes x)) (leValue (x.data.take 4)) (leValue (x.data.drop 4))).1
      ∃ (u : State) (g' : Group) (tm' : Team) (o' : Out), exec (.lineRequest r.id) s = .next (u.settle r.gid) ∧ (∀ q ∈ u.reqs, q.id ≠ r.id) ∧
        (∀ a, u.byteAt r.place.space a = if r.place.addr + x.off ≤ a ∧ a < r.place.addr + x.off + 4
          then (leBytes 4 new).getD (a - (r.place.addr + x.off)) 0#8 else old a) ∧
        u.group? r.gid = some g' ∧ g'.team? r.tid = some tm' ∧ (tm'.outs.find? fun x => x.id == r.op) = some o' ∧
        assocGet o'.data x.lane 0 % 2 ^ 32 = leValue (bytes x)))

/-- Every step keeps the numbers of groups distinct and below the next one, and those of requests in flight and held below theirs, so
that nothing a run makes later shares a number with what is there (the numbers are the model's, log 81; R29, R135); and they are so after
power-on. -/
def Obligations.EveryStepKeepsNumbersDistinct : Prop :=
  State.reset.numbered = true ∧ ∀ s t : State, s.numbered = true → step s = .next t → t.numbered = true

/-! ### Matrix instructions -/

/-- MAINIT and MAINIT AUTO, MMA, MRESOLVE, MDRAIN typed and raw, MDRAINP, MSAVE and MLOAD in both forms, MCMP, MDROP of a tile and of
either FIFO, MSTAT and MWAIT complete on the control core, where the checks pass and an active lane is there: the command, with the
values read at issue, is the last of the unit's queue, or, while commands are held after a trap and no handler issues it, the last of those;
an operation is outstanding for it, MWAIT parks the context, and nothing else changes; with no active lane only the pc moves. MDRAINP and MWAIT
end the context's consistency region, with an active lane and without (R136, R185 to R187, R325 to R333). -/
def Obligations.MatrixInstructionsQueueTheirCommands : Prop :=
  ∀ (i : Instr) (F : MatrixForm) (s : State) (h : Here), s.shaped = true → s.here = some h → matrixForm s h i = some F →
    h.team.isCore = true → h.check { F.uses with act := h.active, long := true } = none →
    let seq := (h.team.seqCtr + 1) % 2 ^ 20
    (h.active = 0#1024 → ∃ t h', exec i s = .next t ∧ Local s t h h' ∧
      h'.team = { h.team with frags := h'.team.frags, seqCtr := if F.region then seq else h.team.seqCtr } ∧
      h'.frag = { h.frag.finish F.y with seq := if F.region then seq else h.frag.seq }) ∧
    (h.active ≠ 0#1024 → F.own →
      ∃ t h' o c, exec i s = .next t ∧ t.here = some h' ∧ t = { s with groups := t.groups, fresh := t.fresh, nextReq := s.nextReq + 1 } ∧ SameBytes s t ∧
        h'.group = { h.group with core := h'.group.core, munit :=
          if h.holdsNew then { h.group.munit with held := h.group.munit.held ++ [c] } else { h.group.munit with queue := h.group.munit.queue ++ [c] } } ∧
        h'.team = { h.team with nextOp := h.team.nextOp + 1, outs := h.team.outs ++ [o], frags := h'.team.frags,
                                seqCtr := if F.region then seq else h.team.seqCtr } ∧
        (h.holdsNew = false → h'.frag = { Frag.finish F.y { h.frag with park := if F.parks then .mwait o.id else h.frag.park } with
          hist := h'.frag.hist, seq := h'.frag.seq }) ∧
        h'.frag.seq = (if F.region then seq else h.frag.seq) ∧ h'.frag.pc = h.frag.nextPc ∧ h'.frag.mask = h.frag.mask ∧ h'.frag.region = h.frag.region ∧
        c.what = F.what ∧ c.op = o.id ∧ c.acc = s.nextReq ∧ c.pc = h.frag.pc ∧ o.id = h.team.nextOp ∧ o.kind = (if h.holdsNew then .held else .matrix) ∧ o.lanes = h.active ∧
        o.dst = F.uses.writes.flatMap fieldWords ∧ o.cc = F.uses.ccWrite)

/-! ### System instructions -/

/-- SYSR and SYSW of a register that the fragment may name complete (R79, R337, R362): SYSR writes the register's value to the active
lanes, and a read of PWCNT clears it; SYSW of a value that the register takes, of which it reads the lowest active lane's word, writes FPCTL of the team (its sticky flags
cleared where 1s are written) or PWCNT, or the launch's TRAPVEC, ENDVA or ADVMASK, and nothing else; a value that it refuses traps ILLOP. REPLACE gives the active
lanes of the faulted instruction's destination word its value, where that word is neither pending nor locked but by the held matrix
instruction that the trap is of; of a destination x0 it changes nothing and goes on (R84, R340). That REPLACE makes no entry in the
last-result file is the model's choice (log 9). -/
def Obligations.SystemRegistersAreReadAndWritten : Prop :=
  (∀ (y : Bool) (d : BitVec 8) (n : BitVec 16) (s : State) (h : Here), s.shaped = true → s.here = some h →
    h.check { word := wordOf (.sysr y d n), illop := h.sysIllegal n.toNat, writes := [(d.toNat, 1)], act := h.active,
              grow := growOf h.oneShape d.toNat 1 } = none →
    ∃ t h' v, exec (.sysr y d n) s = .next t ∧ Local s t h h' ∧ Wrote y d.toNat 1 h.active (fun _ => v) h h' ∧
      h'.team = { h.team with v := h'.team.v, o := h'.team.o, frags := h'.team.frags,
                              pwcnt := if n = 0x25#16 ∧ h.active ≠ 0#1024 then 0#32 else h.team.pwcnt } ∧
      (n = 0#16 → v = h.team.fpctl.toNat) ∧ (n = 0x25#16 → v = h.team.pwcnt.toNat) ∧ (n = 0x30#16 → v = if h.frag.priv then 1 else 0) ∧
      (∀ r w, h.frame = some r → 0x10 ≤ n.toNat → n.toNat < 0x18 → r.flt[n.toNat - 0x10]? = some w → v = w.toNat) ∧
      (∀ l, s.launchOf h.group = some l → (n = 0x20#16 → v = l.trapvec % 2 ^ 32) ∧ (n = 0x21#16 → v = l.trapvec / 2 ^ 32 % 2 ^ 32) ∧
        (n = 0x22#16 → v = l.endva % 2 ^ 32) ∧ (n = 0x23#16 → v = l.endva / 2 ^ 32 % 2 ^ 32) ∧ (n = 0x24#16 → v = l.advmask.toNat))) ∧
  (∀ (y : Bool) (d : BitVec 8) (n : BitVec 16) (s : State) (h : Here), s.shaped = true → s.here = some h →
    h.check { word := wordOf (.sysw y d n), illop := h.sysIllegal n.toNat, reads := [(d.toNat, 1)], act := h.active,
              poison := h.oncePoison [(d.toNat, 1)] } = none → h.active ≠ 0#1024 →
    let v := (h.read d.toNat (h.active.lowest h.team.e0)).toNat
    (sysRefuses n.toNat v = false → ∃ t h', exec (.sysw y d n) s = .next t ∧ t.here = some h' ∧ SameBytes s t ∧ h'.frag = h.frag.finish y ∧
      h'.team = { h.team with fpctl := if n = 0#16 then (BitVec.ofNat 32 v &&& ~~~0x1F0#32) ||| (h.team.fpctl &&& 0x1F0#32 &&& ~~~(BitVec.ofNat 32 v))
                                       else h.team.fpctl, pwcnt := if n = 0x25#16 then BitVec.ofNat 32 v else h.team.pwcnt, frags := h'.team.frags } ∧
      (∀ id, id ≠ h.group.launch → t.launch? id = s.launch? id) ∧
      ∀ l, s.launchOf h.group = some l → ∃ l', t.launchOf h.group = some l' ∧
        l' = { l with trapvec := l'.trapvec, endva := l'.endva, advmask := l'.advmask, trapvecLo := l'.trapvecLo, endvaLo := l'.endvaLo } ∧
        (∀ lo, n = 0x21#16 → l.trapvecLo = some lo → l'.trapvec = lo.toNat + 2 ^ 32 * v) ∧ (n ≠ 0x21#16 → l'.trapvec = l.trapvec) ∧
        (∀ lo, n = 0x23#16 → l.endvaLo = some lo → l'.endva = lo.toNat + 2 ^ 32 * v) ∧ (n ≠ 0x23#16 → l'.endva = l.endva) ∧
        l'.advmask = (if n = 0x24#16 then BitVec.ofNat 32 v else l.advmask)) ∧
    (sysRefuses n.toNat v = true → ∃ t h' p, exec (.sysw y d n) s = .next t ∧ Local s t h h' ∧ h'.frag.park = .trap ∧ p ∈ h'.team.faults ∧
      p.cause = 0x01 ∧ p.lanes = h.active ∧ p.detail = wordOf (.sysw y d n) ∧ h'.team.fpctl = h.team.fpctl)) ∧
  (∀ (y : Bool) (a : BitVec 8) (w : BitVec 2) (s : State) (h : Here) (fr : Frame) (r : Nat), s.shaped = true → s.here = some h →
    h.frag.priv = true → h.frame = some fr → fr.dest[w.toNat]? = some r → (if r < 0xC0 then r < h.team.vCount else r < 0xD0 ∧ r - 0xC0 < h.team.oCount) →
    (h.freeHeld r).check { word := wordOf (.replace y a w), reads := [(a.toNat, 1)], writes := [(r, 1)], act := h.active,
                             grow := if r < 0xC0 then growOf (h.shapeOf .mov h.active [h.shapeWord a.toNat]) r 1 else [] } = none →
    ∃ t h', exec (.replace y a w) s = .next t ∧ Local s t h h' ∧ h'.frag = h.frag.finish y ∧
      h'.team = { h.team with v := h'.team.v, o := h'.team.o, outs := h'.team.outs, frags := h'.team.frags } ∧
      (∀ k < h.team.e0, h.active.has k → (h'.team.reg r).val.lane k = h.read a.toNat k ∧ (h'.team.reg r).poisoned k = false) ∧
      ∀ q < 0xD0, q ≠ r → h'.team.reg q = h.team.reg q) ∧
  (∀ (y : Bool) (a : BitVec 8) (w : BitVec 2) (s : State) (h : Here) (fr : Frame) (r : Nat), s.shaped = true → s.here = some h →
    h.frag.priv = true → h.frame = some fr → fr.dest[w.toNat]? = some r → 0xD0 ≤ r →
    (h.freeHeld r).check { word := wordOf (.replace y a w), reads := [(a.toNat, 1)], act := h.active } = none →
    ∃ t h', exec (.replace y a w) s = .next t ∧ Local s t h h' ∧ h'.frag = h.frag.finish y ∧ h'.team = { h.team with frags := h'.team.frags })

/-- PTW at S of an aligned guest address that the range table lets the device write parks the fragment with one write of the entry in
flight; INVL at S, of a page or of all, parks until the fragment's writes are performed, or, with none, discards the device's translations of
the page and goes on, or waits for the accesses that used them; in both no byte and no register changes (R338, R339). At U both trap
ILLOP. -/
def Obligations.TranslationUpkeepCompletes : Prop :=
  (∀ (y : Bool) (a b : BitVec 8) (s : State) (h : Here) (p : Place), s.shaped = true → s.here = some h →
    h.check { word := wordOf (.ptw y a b), illop := !h.frag.priv, reads := [(a.toNat, 2), (b.toNat, 2)], act := h.active,
              poison := h.oncePoison [(a.toNat, 2), (b.toNat, 2)] } = none → h.active ≠ 0#1024 →
    let lane := h.active.lowest h.team.e0
    let gpa := h.readN a.toNat 2 lane
    gpa % 8 = 0 → gpa < 2 ^ 48 → s.ptwPlace h.group.vd gpa = .ok p →
    ∃ t h' r, exec (.ptw y a b) s = .next t ∧ t.here = some h' ∧ SameBytes s t ∧
      t = { s with groups := t.groups, fresh := t.fresh, reqs := s.reqs ++ [r], nextReq := s.nextReq + 1 } ∧
      h'.team = { h.team with nextOp := h.team.nextOp + 1, frags := h'.team.frags } ∧
      h'.frag = { Frag.finish y { h.frag with park := .ptw s.nextReq } with hist := h'.frag.hist } ∧
      r.id = s.nextReq ∧ r.action = .ptw ∧ r.place = p ∧
      (h.active.has lane = true → lane < h.team.e0 → ∃ x ∈ r.lanes, x.lane = lane ∧ x.off = gpa % 128 ∧ x.data = leBytes 8 (h.readN b.toNat 2 lane))) ∧
  (∀ (y page : Bool) (a : BitVec 8) (s : State) (h : Here), s.shaped = true → s.here = some h →
    let i := if page then Instr.invlPage y a else Instr.invlAll y a
    let va := h.readN a.toNat 2 (h.active.lowest h.team.e0)
    h.check { word := wordOf i, illop := !h.frag.priv, reads := [(a.toNat, 2)], act := h.active, poison := h.oncePoison [(a.toNat, 2)] } = none →
    h.active ≠ 0#1024 → (page = true → va < 2 ^ 48) →
    ∃ t h', exec i s = .next t ∧ t.here = some h' ∧ SameBytes s t ∧ t.reqs = s.reqs ∧
      h'.team = { h.team with frags := h'.team.frags } ∧ h'.frag.pc = h.frag.nextPc ∧ h'.frag.mask = h.frag.mask ∧
      (s.openWrites h.frag ≠ [] → t.tlb = s.tlb ∧ h'.frag.park = .invl (s.openWrites h.frag) (if page then some va else none) []) ∧
      (s.openWrites h.frag = [] → t.tlb = (s.tlb.filter fun e => !(e.vd == h.group.vd && (!page || (decide (e.va ≤ va) && decide (va < e.va + e.size))))) ∧
        (h'.frag.park = (if y then .marker else .none) ∨ ∃ after, after ≠ [] ∧ h'.frag.park = .invl [] (if page then some va else none) after))) ∧
  (∀ (i : Instr) (s : State) (h : Here), s.shaped = true → s.here = some h → h.frag.priv = false →
    ((∃ y a b, i = .ptw y a b) ∨ (∃ y a, i = .invlPage y a) ∨ (∃ y a, i = .invlAll y a) ∨ ∃ y a w, i = .replace y a w) →
    ∃ t h' p, exec i s = .next t ∧ Local s t h h' ∧ h'.frag.park = .trap ∧ p ∈ h'.team.faults ∧ p.cause = 0x01 ∧ p.pc = h.frag.pc)

/-! ### Events of fragments -/

/-- SLEEP_EXPIRY, ADVISE_DELIVERY, PROMISE_PASSED, WRITE_ACKNOWLEDGEMENT, LANDING_ARRIVAL, FORK_GRANT and ACQUIRE_GRANT complete when
they are due: a sleep whose targets have all come ends at its next park; the oldest advisory enters the handler with cause 41H and
its code; an AWAITF whose promise has passed ends with PROMISE; the oldest acknowledgement is on its way no more; a request is
delivered for one token; a FORK starts the context, binds its queue and goes on; an ACQUIRE gives the team its full allotment, with
its new registers zero (R146, R183, R242, R243, R247, R360). That a request takes its token when it is delivered, in one step of its own
for every request to memory, where R421 takes it at the source, is the model's choice (logs 7 and 43). -/
def Obligations.FragmentEventsComplete : Prop :=
  ∀ (s : State) (a : AgentId) (g : Group) (tm : Team) (f : Frag), s.shaped = true → s.agent? a = some (g, tm, f) →
    (∀ ts, f.park = .sleep ts → (∀ w ∈ ts, (BitVec.ofNat 32 s.clock - w).getLsbD 31 = false) →
      ∃ (u : State) (g' : Group) (tm' : Team) (f' : Frag), exec (.sleepExpiry a) s = .next u ∧ u.agent? a = some (g', tm', f') ∧ SameBytes s u ∧
        f'.park = (if f.marked then .marker else if f.again then .drain else .none) ∧ f'.pc = f.pc ∧ f'.mask = f.mask ∧ tm' = { tm with frags := tm'.frags }) ∧
    (∀ l code va, s.launchOf g = some l → s.dueAdvice g tm f = some (code, va) → l.trapvec ≠ 0 →
      ∃ (u : State) (g' : Group) (tm' : Team) (f' : Frag) (r : Frame), exec (.adviseDelivery a) s = .next u ∧ u.agent? a = some (g', tm', f') ∧
        f'.pc = BitVec.ofNat 48 l.trapvec ∧ f'.priv = true ∧ f'.mask = f.mask ∧ r ∈ tm'.frames ∧ r.mask = f.mask ∧ r.pcResume = f.pc ∧
        (r.flt[0]?.map fun w => w.toNat % 256) = some 0x41 ∧ r.flt[7]? = some (BitVec.ofNat 32 code) ∧ r.flt[4]? = some (BitVec.ofNat 32 va) ∧
        (u.launchOf g).map (·.advisories) = some l.advisories.tail ∧ SameBytes s u) ∧
    (∀ o r j, s.promiseDue tm f = some (o, r, j) →
      ∃ (u : State) (g' : Group) (tm' : Team) (f' : Frag), exec (.promisePassed a) s = .next u ∧ u.agent? a = some (g', tm', f') ∧ SameBytes s u ∧
        f'.park = (if f.marked then .marker else .drain) ∧ f'.pc = f.pc ∧ (∀ x ∈ tm'.outs, x.id ≠ o.id) ∧ ∃ p ∈ tm'.faults, p.cause = 0x30 ∧ p.op = o.order) ∧
    (∀ id, s.dueAck f = some id → ∃ u : State, exec (.writeAcknowledgement a) s = .next u ∧ u.acks = s.acks.erase id ∧ SameBytes s u) ∧
    (∀ r v, (s.reqs.find? fun q => q.id == r.id) = some r → s.vds[r.vd]? = some v → s.mayLand r = true →
      ∃ u : State, exec (.landingArrival r.id) s = .next u ∧ u.reqs = (s.reqs.map fun q => if q.id = r.id then { q with landed := true } else q) ∧
        (u.vds[r.vd]?.map (·.tokens)) = some (if v.rate.toNat / 65536 = 0 then v.tokens else v.tokens - 1) ∧ SameBytes s u) ∧
    (∀ cluster entry desc order word l ctx, s.nextFork cluster = some a → f.park = .fork entry desc order word → s.launchOf g = some l →
      s.forkContext g = some ctx → (∀ c, g.core = some c → c.live = 0#1024) →
      ∃ (u : State) (g' : Group) (c : Team) (fc : Frag) (q : QueueId), exec (.forkGrant cluster) s = .next u ∧ u.group? a.gid = some g' ∧ g'.core = some c ∧
        c.isCore = true ∧ c.e0 = 1 ∧ c.live = 1#1024 ∧ c.vCount = l.hdr.cv ∧ c.oCount = l.hdr.co ∧ c.frags = [fc] ∧ fc.pc = BitVec.ofNat 48 entry ∧
        fc.mode = 0#24 ∧ fc.priv = false ∧ fc.park = .none ∧ g'.queue = some q ∧ q.desc = desc ∧ q.vd = g.vd ∧ q.kind = .engine ∧ q.unit = g.cluster ∧ q.ctx = ctx ∧
        g'.munit = MUnit.empty ∧ ((u.agent? a).map fun x => x.2.2.park) = some (if f.marked then .marker else if f.again then .drain else .none)) ∧
    (∀ l, s.launchOf g = some l → f.park = .acquire → g.phase = .resident →
      ∃ (u : State) (g' : Group) (tm' : Team), exec (.acquireGrant a.gid a.tid) s = .next u ∧ u.group? a.gid = some g' ∧ g'.team? a.tid = some tm' ∧ SameBytes s u ∧
        tm'.acquired = true ∧ tm'.vCount = l.hdr.fv ∧ tm'.gMax = l.hdr.fg ∧ (∀ x ∈ tm'.frags, x.park ≠ .acquire) ∧ tm'.o = tm.o ∧ tm'.live = tm.live ∧
        (∀ r, r < tm.v.length → tm'.v[r]? = tm.v[r]?) ∧ ∀ r, tm.v.length ≤ r → r < l.hdr.fv → tm'.v[r]? = some { val := .u 0#32, poison := 0#1024 })

/-! ### Launches, the pool and pre-emption -/

/-- LAUNCH_PACKET, WAIT_CONDITION_CHECK, GROUP_ADMIT, POOL_EVENT and QUANTUM_EXPIRY complete: a header that has been read whole and that
admission accepts becomes a launch, ready when its condition is met, waiting when it is not and the wait list has room, else held at the queue's
head as it was read; one it refuses completes its packet with BADPKT; a waiting launch whose condition is met is ready, and another goes on
waiting; admission adds groups whose teams start at ENTRY at U with every lane, on TRUSTED dies; a free pool quadrant that is granted is the device's
for its quantum, which all its grants share; and at its end the device's pass advances by QEFF × 65,536 / WEIGHT, exactly (R12, R31,
R71, R177, R366 to R370, R373). With no grant held, the device that R370 serves first
is given every free pool quadrant on which its groups then have a place, were all free ones its own.
The model's choices here: a pass is counted in parts of 1 / passUnit (log 87), the places are those that its groups would take in their order of admission on
clusters from the lowest number on, and the ready launches that count are those that want a place (log 57), and the unit reads the lines of a header at once, when it may
reach them all (log 117). -/
def Obligations.LaunchEventsComplete : Prop :=
  (∀ (s : State) (q : QueueId) (x : Queue) (p p' : Packet), s.queue? q = some x → x.head = some p → p.started = true → p.code = none →
    p.type = 5 → x.miss = none → s.serverStopped q = false →
    let n := lineCount (s.headerLines q.vd p)
    let s' := s.pay q n
    s.mayReach q (s.headerLines q.vd p ++ [q.desc]) n = true → s'.readHeader q.vd p = (p', none) →
    let hd := p'.header.1
    (s'.accepts q.vd p'.header.2 hd = true → s'.conditionMet (s'.newLaunch q p' hd) = .ok true →
      ∃ (u : State) (l : Launch), exec (.launchPacket q) s = .next u ∧ l ∈ u.launches ∧ l.id = s.nextLaunch ∧ l.phase = .ready ∧ l.hdr = hd ∧ l.vd = q.vd ∧
        l.die = q.unit ∧ l.toAdmit = hd.groupsOf ∧ l.trapvec = hd.trapvec ∧ l.status = 0 ∧ (u.queue? q).map (·.head) = some none) ∧
    (s'.accepts q.vd p'.header.2 hd = true → s'.conditionMet (s'.newLaunch q p' hd) = .ok false → (s.waitList q.unit).length < 64 →
      ∃ (u : State) (l : Launch), exec (.launchPacket q) s = .next u ∧ l ∈ u.launches ∧ l.id = s.nextLaunch ∧ l.phase = .waiting ∧ l.hdr = hd ∧ l.vd = q.vd ∧
        (u.queue? q).map (·.head) = some none) ∧
    (s'.accepts q.vd p'.header.2 hd = true → s'.conditionMet (s'.newLaunch q p' hd) = .ok false → 64 ≤ (s.waitList q.unit).length →
      ∃ u : State, exec (.launchPacket q) s = .next u ∧ u.launches = s.launches ∧ (u.queue? q).map (·.head) = some (some p')) ∧
    (s'.accepts q.vd p'.header.2 hd = false →
      ∃ u : State, exec (.launchPacket q) s = .next u ∧ ((u.queue? q).bind (·.head)).map (·.code) = some (some 0x13) ∧ u.launches = s.launches ∧ SameBytes s u)) ∧
  (∀ (s : State) (die n : Nat) (l : Launch), (s.waitList die)[n]? = some l → s.serverUp l.queue = true → s.linesFree l.vd [l.hdr.waitAddr] = true →
    (s.conditionMet l = .ok true → ∃ (u : State) (l' : Launch), exec (.waitConditionCheck die n) s = .next u ∧ l' ∈ u.launches ∧ l'.id = l.id ∧ l'.phase = .ready ∧
      l'.hdr = l.hdr ∧ SameBytes s u) ∧
    (s.conditionMet l = .ok false → exec (.waitConditionCheck die n) s = .next s)) ∧
  (∀ (s : State) (die n : Nat) (l : Launch), (s.waitList die)[n]? = some l → s.serverUp l.queue = false → exec (.waitConditionCheck die n) s = .next s) ∧
  (∀ (s : State) (l : Launch) (index : Nat), s.launch? l.id = some l → s.mayAdmit l = true → index + l.toAdmit = l.hdr.groupsOf →
    let kept (g : Group) : Group := { g with lazyRows := [], lazySpad := [] }
    ∃ (u : State) (new : List Group), exec (.groupAdmit l.id index) s = .next u ∧ u.groups.map kept = (s.groups ++ new).map kept ∧ SameBytes s u ∧
      (∀ g ∈ new, g.launch = l.id ∧ g.vd = l.vd ∧ g.phase = .resident ∧ g.mem = [] ∧ (s.die (g.cluster / 72)).state = .trusted ∧ g.teams.length = l.hdr.e 1 ∧
        ∀ t ∈ g.teams, t.e0 = l.hdr.e 0 ∧ t.live = Mask.first (l.hdr.e 0) ∧ ∃ f, t.frags = [f] ∧ f.pc = BitVec.ofNat 48 l.hdr.entry ∧ f.mask = t.live ∧ f.mode = 0#24 ∧
          f.priv = false ∧ f.park = .none) ∧
      (new ≠ [] → (u.launch? l.id).map (·.toAdmit) = some (l.toAdmit - new.length)) ∧
      (l.hdr.cohortSize = 1 → l.hdr.persistent = false → (∃ c < 216, 0 < s.capNow l 1 c) →
        (∀ c < 216, 0 < s.capNow l 1 c → (s.admitOn l index c).isSome = true) → new.length = 1)) ∧
  (∀ s : State, ∃ u : State, exec .poolEvent s = .next u ∧ SameBytes s u ∧ u.groups = s.groups ∧ u.launches = s.launches ∧
    ∀ c k gr, (s.cluster c).grantOf k = none → (u.cluster c).grantOf k = some gr →
      ownerIn (s.cluster c).own k = none ∧ gr.quad = k ∧ gr.spent = false ∧ (gr.until_ = s.clock + 1200 * (s.vd gr.vd).qeff.toNat ∨
        ∃ c' old, old ∈ (s.cluster c').grants ∧ old.vd = gr.vd ∧ old.spent = false ∧ gr.until_ = old.until_)) ∧
  (∀ (s : State) (d : Nat) (ds : List Nat), (∀ x ∈ s.clusters, x.grants = []) → s.poolOrder.2 = d :: ds →
    ∃ u : State, exec .poolEvent s = .next u ∧ SameBytes s u ∧ ∀ c < 216, ∀ k < 4, c < s.clusters.length → ownerIn (s.cluster c).own k = none →
      (∃ g ∈ ((s.offer d).placeAll d).groups, g.vd = d ∧ g.cluster = c ∧ g.phase.placed = true ∧ ∃ tm ∈ g.allTeams, tm.quadrant = k) →
      (u.cluster c).grantOf k = some { quad := k, vd := d, until_ := s.clock + 1200 * (s.vd d).qeff.toNat, spent := false }) ∧
  (∀ (s : State) (vd : Nat) (v : VDev), s.vds[vd]? = some v → (s.clusters.any fun c => c.grants.any (s.grantDue vd)) = true →
    ∃ (u : State) (v' : VDev), exec (.quantumExpiry vd) s = .next u ∧ SameBytes s u ∧ u.groups = s.groups ∧ u.vds[vd]? = some v' ∧
      v' = { v with pass := v'.pass } ∧ v.pass ≤ v'.pass ∧
      (0 < v.sched0.toNat % 256 → (v.sched0.toNat % 256) * (v'.pass - v.pass) = v.qeff.toNat * 65536 * passUnit) ∧
      (v.sched0.toNat % 256 = 0 → v'.pass = v.pass) ∧
      ∀ c gr, gr ∈ (u.cluster c).grants → ∃ old ∈ (s.cluster c).grants, gr = { old with spent := old.spent || s.grantDue vd old })

/-- PREEMPT_REQUEST of a device that quiesces, whose launches give no drain estimate, leaves no group of it resident on the cluster, and
DRAIN_DEADLINE does the same to a drain of a whole device that has come to its deadline (R374, R375, R380). GROUP_RESTORE places a saved group
with its registers and scratchpad as they were, but a register whose tags were lost as U with its words poisoned (R378), or sets RESTFAIL where
its image is refused (R379); GROUP_RESTART runs a discarded group again from its snapshots, the deferred sets of their entries waiting as they did, with
its scratchpad zero, every v register uniform zero, the operand, last-result and condition-code files clear, and the prologue allotment or the full one
(R50, R128). The model's choices here: the tape tells which image is refused, and a register whose tags were lost counts as two poisoned
words with an advisory for each (log 50); a restart has one fragment for each snapshot (log 63), and at U (log 97); a team with snapshots of both kinds has the
full allotment (log 98); and a snapshot holds the deferred sets of its entry, which come back waiting, with no region (log 106). -/
def Obligations.PreemptionsAndReturnsComplete : Prop :=
  (∀ (s : State) (cluster vd : Nat), s.shaped = true → s.numbered = true → (s.vd vd).quiesce = true → ((s.cluster cluster).preempts.all fun p => p.vd != vd) = true →
    (∀ g ∈ s.groups, g.vd = vd → g.cluster = cluster → g.phase = .resident → ((s.headerOf g).map (·.expect)).getD 0 = 0) →
    ∃ u : State, exec (.preemptRequest cluster vd true) s = .next u ∧ ∀ g ∈ u.groups, g.vd = vd → g.cluster = cluster → g.phase ≠ .resident) ∧
  (∀ (s : State) (cluster : Nat) (p : Preempt), s.shaped = true → s.numbered = true → p ∈ (s.cluster cluster).preempts → p.choice = .drain → p.deadline ≤ s.clock →
    p.level = none → ∃ u : State, exec (.drainDeadline cluster) s = .next u ∧ ∀ g ∈ u.groups, g.vd = p.vd → g.cluster = cluster → g.phase ≠ .resident) ∧
  (∀ (s : State) (cluster : Nat) (g : Group) (l : Launch), s.shaped = true → s.group? g.gid = some g → s.launchOf g = some l → g.phase = .saved → g.refused = false →
    s.mayReturnTo g l cluster = true →
    (s.oracle.headD 0 ≠ 1 → (s.resume { g.restoreTags with since := s.clock - g.since } l.hdr cluster).isSome = true →
      ∃ (u : State) (g' : Group), exec (.groupRestore g.gid cluster) s = .next ((u.settle g.gid).adviseWords l.id (2 * g.untagged.length)).popChoice ∧
        u.group? g.gid = some g' ∧ g'.phase = .resident ∧ g'.cluster = cluster ∧ g'.mem = g.mem ∧ g'.barriers = g.barriers ∧
        (g'.teams.map fun t => (t.tid, t.live, t.o, t.cc, t.b, t.fpctl)) = (g.teams.map fun t => (t.tid, t.live, t.o, t.cc, t.b, t.fpctl)) ∧
        (g.untagged = [] → (g'.teams.map (·.v)) = g.teams.map (·.v)) ∧
        (∀ (k : Nat) (t t' : Team), g.teams[k]? = some t → g'.teams[k]? = some t' → ∀ r < min t.v.length 0xC0, t'.v[r]? =
          if (t.tid, r) ∈ g.untagged then some { val := .u 0#32, poison := Mask.first t.e0 } else t.v[r]?) ∧
        (g'.core.map fun t => (t.live, t.v, t.o)) = g.core.map fun t => (t.live, t.v, t.o)) ∧
    (s.oracle.headD 0 = 1 → g.vd < s.vds.length →
      ∃ (u : State) (g' : Group), exec (.groupRestore g.gid cluster) s = .next u ∧ u.group? g.gid = some g' ∧ g'.refused = true ∧ g'.phase = .saved ∧
        (u.vd g.vd).restfail = true ∧ SameBytes s u)) ∧
  (∀ (s : State) (cluster : Nat) (g : Group) (l : Launch), s.shaped = true → s.group? g.gid = some g → s.launchOf g = some l → g.phase = .discarded →
    s.mayReturnTo g l cluster = true →
    (s.resume { g with teams := g.teams.map (·.rebuild l.hdr), mem := [], memPoison := [], since := s.clock, restarted := true
                       barriers := g.barriers.map fun b => { b with arrived := 0 } } l.hdr cluster).isSome = true →
    ∃ (u : State) (g' : Group), exec (.groupRestart g.gid cluster) s = .next (u.settle g.gid) ∧ u.group? g.gid = some g' ∧ g'.phase = .resident ∧ g'.cluster = cluster ∧
      g'.mem = [] ∧ g'.restarted = true ∧ g'.teams.length = g.teams.length ∧
      ∀ (k : Nat) (t t' : Team), g.teams[k]? = some t → g'.teams[k]? = some t' → t.live ≠ 0#1024 →
        (∀ r ∈ t'.v, r = { val := .u 0#32, poison := 0#1024 }) ∧ (∀ r ∈ t'.o, ∀ k, r.val.lane k = 0#32 ∧ r.poisoned k = false) ∧
        (∀ c < 4, ∀ k, t'.ccOf c k = Flags.zero) ∧ t'.v.length = t'.vCount ∧
        ((∀ f ∈ t.frags, ∀ r, f.region = some r → r.acquired = false) → t'.vCount = l.hdr.pv ∧ t'.gMax = l.hdr.pg) ∧
        ((∃ f ∈ t.frags, ∃ r, f.region = some r ∧ r.acquired = true) → t'.vCount = l.hdr.fv ∧ t'.gMax = l.hdr.fg) ∧
        ∀ f ∈ t'.frags, f.priv = false ∧ f.x = [] ∧ f.park = .none ∧
        ((∃ r, (∃ o ∈ t.frags, o.region = some r) ∧ f.region = some r ∧ f.pc = r.pc ∧ f.mask = r.mask ∧ f.mode = r.mode ∧ f.joins = r.joins) ∨
          (f.waits = true ∧ f.region = none ∧ ∃ o ∈ t.frags, ∃ r d, o.region = some r ∧ d ∈ r.deferred ∧ f.pc = d.pc ∧ f.mask = d.mask ∧ f.mode = d.mode)))

/-! ### Servers and packets -/

/-- QUEUE_SLOT_TAKE, COPY, MCAST, FILLA, FILLB, FIFO_PANEL_PUSH, CKPT, MARK and PACKET_COMPLETE complete: a server takes the slot at RIDX
when it is ready, and else reports QSTATE 1; a step of a packet writes the elements that it has read to their destination (memory, a window, or the
data of its ring slot), pushes a panel into its FIFO or writes it into the slot, writes a chunk with its digest and marker, or only the
digest where a valid marker holds it already, or the mark's value, and counts them; a chunk that was read with poison leaves its copy poisoned; a COPY with
SHADOW reads and writes nothing until it completes, and then moves its elements into the shadow with the flags that they set; and a packet that is done completes the slots of its receivers and its
own, without one it is counted if it failed, and it leaves the queue's head, a MARK once every earlier packet has (R160, R161, R163, R170 to R175, R178,
R179, R182, R322). The model's choices here: a step moves as many elements as its event says (log 18), whether a SHADOW destination is dual-backed is
looked at in its first step (log 95), and a step waits until it may reach all its lines (log 117). -/
def Obligations.ServerEventsComplete : Prop :=
  (∀ (s : State) (q : QueueId) (x : Queue) (d : QDesc) (bs : List Byte), s.queue? q = some x → s.serves x = true → x.halted = false → x.head = none → x.miss = none →
    let vas := [q.desc, d.slotAt d.ridx]
    let s' := s.charged q vas
    s.desc q.vd q.desc = .ok d → d.ridx ≠ d.widx → s.reaches q vas = true → s'.descOk q d = true → s'.readVa q.vd (d.slotAt d.ridx) 64 = .ok bs →
    (bitOf (leValue bs) 7 = false → ∃ u : State, exec (.queueSlotTake q) s = .next u ∧ u = (s'.setQstate q 1).popChoice) ∧
    (bitOf (leValue bs) 7 = true → ∀ s1 s2, s'.writeVa q.vd (d.slotAt d.ridx) [BitVec.ofNat 8 (leValue bs % 256 - 128)] = .ok s1 →
      s1.writeVa q.vd (q.desc + 16) (leBytes 4 ((d.ridx + 1) % 2 ^ 32)) = .ok s2 →
      ∃ (u : State) (p : Packet), exec (.queueSlotTake q) s = .next u ∧ (u.queue? q).map (·.head) = some (some p) ∧ p.slot = d.ridx ∧ p.bits = leValue bs ∧ p.started = false)) ∧
  (∀ (s : State) (q : QueueId) (x : Queue) (p : Packet), s.canonical = true → s.queue? q = some x → x.head = some p → p.started = true → p.code = none → x.miss = none →
    s.serverStopped q = false → (s.side.all fun e => !(decide (e.2.1 = q) && e.2.2.started)) = true → s.nextWoken q = none →
    let fin (u : State) : State := match x.group with | some gid => u.settle gid | none => u
    let left (n : Nat) : Nat := if n = 0 then p.elements - p.progress else min n (p.elements - p.progress)
    (∀ n, p.type = 1 → q.kind ≠ .peerPort →
      let vas := State.copyReach q s p (State.copyStep q n s p).2.1
      let s' := s.charged q vas
      (State.copyStep q n s p).2.1.progress ≠ p.progress → s.reaches q vas = true →
      (p.shadow = false → ∀ r at_ s1, s'.copyDest q p = .ok (r, at_) →
        let m := gather (s'.copyElem q.vd p) p.dsize p.progress (left n)
        m.stop = none → s'.deposit r false (at_ + p.dsize * p.progress) p.dsize p.progress m = .ok s1 →
        ∃ (u : State) (p' : Packet), exec (.copy q n) s = .next (fin u) ∧ u.current q = some (p', false) ∧ p'.progress = p.progress + m.count ∧ p'.done = p.done + m.count ∧
          p'.flags = p.flags ||| m.flags ∧ p'.code = (if p.progress + m.count = p.elements then some 0x02 else none) ∧ (∀ sp a, u.byteAt sp a = s1.byteAt sp a) ∧
          u.poisoned = s1.poisoned ∧
          (∀ gid w g y, r.window = some (gid, w) → s.group? gid = some g → g.window? w = some y →
            ∀ k b, m.bytes[k]? = some b → u.byteAt (.scratch gid) (y.offset + at_ + p.dsize * p.progress + k) = b)) ∧
      (p.shadow = true → ∀ r at_, s'.copyDest q p = .ok (r, at_) → s'.inDual q.vd at_ (p.elements * p.dsize) = .ok true →
        ∃ (u : State) (p' : Packet), exec (.copy q n) s = .next (fin u) ∧ u.current q = some (p', false) ∧ SameBytes s u ∧
          p'.progress = p.elements ∧ p'.done = p.elements ∧ p'.flags = p.flags ∧ p'.code = some 0x02)) ∧
    (∀ n, p.type = 4 →
      let vas := s.copyLines q.vd p p.progress (State.mcastStep q n s p).2.1.progress
      let s' := s.charged q vas
      let m := gather (s'.copyElem q.vd p) p.dsize p.progress (left n)
      (State.mcastStep q n s p).2.1.progress ≠ p.progress → s.reaches q vas = true → m.stop = none →
      ∃ (u : State) (p' : Packet), exec (.mcast q n) s = .next (fin u) ∧ u.current q = some (p', false) ∧ p'.progress = p.progress + m.count ∧
        ∀ r ∈ p.receivers, ∀ gid w g y, r.window = some (gid, w) → s.group? gid = some g → g.window? p.dwnum = some y →
          ∀ k b, m.bytes[k]? = some b → u.byteAt (.scratch gid) (y.offset + p.daddr + p.dsize * p.progress + k) = b) ∧
    (∀ i, ((i = .filla q 1 ∧ p.type = 2) ∨ (i = .fillb q 1 ∧ p.type = 3) ∨ (i = .fifoPanelPush q ∧ (p.type = 2 ∨ p.type = 3))) → p.progress < p.npanel →
      (∀ gid g els fl, p.dslot = false →
        let vas := State.fillReach q s p (State.pushPanels q 1 s p).2.1
        let s' := s.charged q vas
        p.group = some gid → s.group? gid = some g → g.fifoLive = true → (if p.type = 2 then g.munit.fa else g.munit.fb).length < 16 → s.reaches q vas = true →
        s.panelRead q.vd p = .ok (els, fl) → s'.panelRead q.vd p = .ok (els, fl) →
        ∃ (u : State) (g' : Group) (p' : Packet) (e : Panel), exec i s = .next (fin u) ∧ u.group? gid = some g' ∧ u.current q = some (p', false) ∧ e.els = els ∧ e.cls = p.cls ∧
          g'.munit = (if p.type = 2 then { g.munit with fa := g.munit.fa ++ [e] } else { g.munit with fb := g.munit.fb ++ [e] }) ∧ p'.progress = p.progress + 1 ∧
          p'.flags = p.flags ||| fl ∧ p'.code = (if p.progress + 1 = p.npanel then some 0x02 else none)) ∧
      (∀ r at_ s1, p.dslot = true → i ≠ .fifoPanelPush q → 0 < p.rows * p.kcnt →
        let vas := State.fillReach q s p (State.slotPanels q 1 s p).2.1
        let s' := s.charged q vas
        let per := p.rows * p.kcnt
        let m := gather (fun e => s'.panelElem q.vd p true (e / per) (e % per / p.kcnt) (e % p.kcnt)) p.panelSize (p.progress * per) per
        (State.slotPanels q 1 s p).2.1.progress ≠ p.progress → s.reaches q vas = true → s'.slotData p = .ok (r, at_) → m.stop = none →
        s'.deposit r false (at_ + p.panelSize * (p.progress * per)) p.panelSize (p.progress * per) m = .ok s1 →
        ∃ (u : State) (p' : Packet), exec i s = .next (fin u) ∧ u.current q = some (p', false) ∧ p'.progress = p.progress + 1 ∧ p'.done = p.done + per ∧
          p'.flags = p.flags ||| m.flags ∧ p'.code = (if p.progress + 1 = p.npanel then some 0x02 else none) ∧ ∀ sp a, u.byteAt sp a = s1.byteAt sp a)) ∧
    (∀ bs bad m pl pm s1, p.type = 6 → p.progress < p.ckChunks →
      let vas := State.ckptReach q s p (State.ckptChunks q 1 s p).2.1
      let s' := s.charged q vas
      let dst := p.ckDst + 65536 * p.progress
      let mark := p.ckMark p.progress
      (State.ckptChunks q 1 s p).2.1.progress ≠ p.progress → s.reaches q vas = true →
      s'.place q.vd dst .write = .ok pl → pl.space = .tier2 → s'.place q.vd mark .write = .ok pm → pm.space = .tier2 →
      s'.chunkRead q.vd (p.ckSrc + 65536 * p.progress) (min 65536 (p.ckLen - 65536 * p.progress)) = .ok (bs, bad) →
      s'.writeVa q.vd (p.ckDig + 32 * p.progress) (sha256 bs) = .ok s1 → s1.readVa q.vd mark 64 = .ok m →
      let valid := m.take 32 = sha256 bs ∧ leValue ((m.drop 32).take 2) = p.ckSet ∧ (m.getD 34 0#8).getLsbD 0 = true
      let code := if p.progress + 1 = p.ckChunks then some 0x02 else none
      (valid → ∃ (u : State) (p' : Packet), exec (.ckpt q 1) s = .next (fin u) ∧ u.current q = some (p', false) ∧ p'.progress = p.progress + 1 ∧ p'.done = p.done ∧
        p'.flags = p.flags ||| flSKIP ∧ p'.code = code ∧ ∀ sp a, u.byteAt sp a = s1.byteAt sp a) ∧
      (¬valid → ∀ s2 s3, s1.writeVa q.vd dst bs = .ok s2 →
        let t := bad.foldl (fun t k => t.taintAt { vd := q.vd, window := none, addr := 0, slot := 0 } false (dst + k) 1) s2
        t.writeVa q.vd mark (sha256 bs ++ leBytes 2 p.ckSet ++ [1#8] ++ List.replicate 29 0#8) = .ok s3 →
        ∃ (u : State) (p' : Packet), exec (.ckpt q 1) s = .next (fin u) ∧ u.current q = some (p', false) ∧ p'.progress = p.progress + 1 ∧ p'.done = p.done + 1 ∧
          p'.flags = p.flags ||| (if bad = [] then 0 else flPOISON) ∧ p'.code = code ∧ u.poisoned = s3.poisoned ∧ ∀ sp a, u.byteAt sp a = s3.byteAt sp a)) ∧
    (∀ s1, p.type = 7 → q.kind ≠ .peerPort → s.earlierDone q p = true →
      let mva := bitsOf p.bits 128 48
      (mva = 0 → ∃ (u : State) (p' : Packet), exec (.mark q) s = .next (fin u) ∧ u.current q = some (p', false) ∧ p'.code = some 0x02 ∧ SameBytes s u) ∧
      (mva ≠ 0 → p.progress = 0 → s.reaches q [mva] = true → (∃ s0, s.writeVa q.vd mva (leBytes 8 (bitsOf p.bits 192 64)) = .ok s0) →
        (s.charged q [mva]).writeVa q.vd mva (leBytes 8 (bitsOf p.bits 192 64)) = .ok s1 →
        ∃ (u : State) (p' : Packet), exec (.mark q) s = .next (fin u) ∧ u.current q = some (p', false) ∧ p'.code = some 0x02 ∧ ∀ sp a, u.byteAt sp a = s1.byteAt sp a))) ∧
  (∀ (s s1 : State) (q : QueueId) (x : Queue) (p p1 : Packet) (c : Nat), s.queue? q = some x → x.pending = [] → x.head = some p → p.started = true → p.code = some c → x.miss = none →
    s.serverStopped q = false → (s.side.all fun e => !(decide (e.2.1 = q) && e.2.2.started)) = true → s.nextWoken q = none → (p.type ≠ 7 ∨ c = 0x13 ∨ s.earlierDone q p = true) →
    s.reaches q (s.completeLines q p) = true → (s.charged q (s.completeLines q p)).storeShadow q p = .ok (s1, p1) →
    let code := if c = 0x02 ∧ p1.flags ≠ 0 then 0x03 else c
    let sent := p1.receivers.foldl (fun t r => match t.completeSlot q r code p1.flags p1.tag p1.done p1.fva with | .ok t => t | .error (b, _, wr) => t.logBad q wr b) s1
    let gone (t : State) : State := (((t.putCurrent q false none).packetGone q p1).setQstate q 0).popChoice
    let fin (u : State) : State := (x.group.toList ++ p.receivers.filterMap fun r => r.window.map (·.1)).foldl State.settle u
    (p.type = 1 → p.shadow = true → p.done ≠ 0 → p.reported = false →
      ∃ r at_, (s.charged q (s.completeLines q p)).copyDest q p = .ok (r, at_) ∧
        let m := gather ((s.charged q (s.completeLines q p)).copyElem q.vd p) p.dsize 0 p.done
        (s.charged q (s.completeLines q p)).deposit r true at_ p.dsize 0 m = .ok s1 ∧ p1 = { p with flags := p.flags ||| m.flags }) ∧
    (∀ r s2, p1.ring = some r → (if p1.reported then sent.advanceCptr q r false else sent.completeSlot q r code p1.flags p1.tag p1.done p1.fva) = .ok s2 →
      exec (.packetComplete q) s = .next (fin (gone s2))) ∧
    (p1.ring = none → exec (.packetComplete q) s = .next (fin (gone (if code = 0x02 ∨ code = 0x03 then sent else sent.countError q)))) ∧
    ∀ t, (t.queue? q).isSome = true → ((gone t).queue? q).map (·.head) = some none)

/-! ### The matrix unit -/

/-- MATRIX_COMMAND_PERFORM and PEER_ARRIVAL complete: a command at the head that can be performed leaves the queue, and its operation
is outstanding no more; MAINIT leaves every element of its tile zero, with the window given, and of class 2 those of both halves of its pair; MMA takes
an entry of each FIFO and adds to each element the products of its row and column, reduced to the window, where they are finite and no
sum on the way leaves the guard range; a command that traps is held with those after it (one that only sent again the lines of a trap is held already); and a tile that arrives at the partner is accepted or refused by it (R187, R192, R194, R200, R328). -/
def Obligations.MatrixUnitEventsComplete : Prop :=
  (∀ (s : State) (g : Group) (c : Cmd) (cs : List Cmd), s.shaped = true → s.group? g.gid = some g → g.phase.placed = true → g.munit.queue = c :: cs → c.miss = [] →
    (∀ id ∈ c.waits, s.outstanding id = false) → s.beforeCmd g c = false →
    (∀ s1 v cc fp, s.performCmd g c = .done s1 v cc fp →
      ∃ (u : State) (g' : Group), exec (.matrixCommandPerform g.gid) s = .next (u.settle g.gid) ∧ u.group? g.gid = some g' ∧ g'.munit.queue = cs ∧
        ∀ t, g'.core = some t → ∀ o ∈ t.outs, o.id ≠ c.op) ∧
    (∀ s1 ts, s.performCmd g c = .trap s1 ts → (s1.group? g.gid).map (·.munit) = some g.munit →
      ∃ (u : State) (g' : Group), exec (.matrixCommandPerform g.gid) s = .next (u.settle g.gid) ∧ u.group? g.gid = some g' ∧ g'.munit.queue = [] ∧
        (g'.munit.held.map (·.op)) = ((if c.part then cs else c :: cs) ++ g.munit.held).map (·.op)) ∧
    (∀ cls m w, c.what = .init cls m w → m < g.munit.tiles.length → cls < 2 →
      ∃ (u : State) (g' : Group), exec (.matrixCommandPerform g.gid) s = .next (u.settle g.gid) ∧ u.group? g.gid = some g' ∧ g'.munit.queue = cs ∧ SameBytes s u ∧
        (g'.munit.tile m).cls = cls ∧ (g'.munit.tile m).w = w ∧ (g'.munit.tile m).role = 0 ∧ (g'.munit.tile m).arrivals = 0 ∧
        (g'.munit.tile m).els = List.replicate 1024 Elem.zero) ∧
    (∀ m w, c.what = .init 2 m w → m + 1 < g.munit.tiles.length →
      ∃ (u : State) (g' : Group), exec (.matrixCommandPerform g.gid) s = .next (u.settle g.gid) ∧ u.group? g.gid = some g' ∧ g'.munit.queue = cs ∧ SameBytes s u ∧
        ∀ k < 2, g'.munit.tile (m + k) = { cls := 2, role := k + 1, w := w, arrivals := 0, refused := false, els := List.replicate 1024 Elem.zero }) ∧
    (∀ m a fa b fb, c.what = .mma m → g.munit.tileBad m = none → g.munit.fa = a :: fa → g.munit.fb = b :: fb → a.cls = (g.munit.tile m).cls → b.cls = (g.munit.tile m).cls →
      ∃ (u : State) (g' : Group), exec (.matrixCommandPerform g.gid) s = .next (u.settle g.gid) ∧ u.group? g.gid = some g' ∧ g'.munit.queue = cs ∧ SameBytes s u ∧
        g'.munit.fa = fa ∧ g'.munit.fb = fb ∧ (g'.munit.tile m).w = (g.munit.tile m).w ∧ (g'.munit.tile m).cls = (g.munit.tile m).cls ∧
        ∀ (i : Nat) (x : List Int) (e : Acc), (g.munit.accs m)[i]? = some e → e.ovf = false →
          let k := match a.cls with | 0 => 16 | 1 => 8 | _ => 4
          let f := match a.cls with | 0 => c19 | 1 => fp32 | _ => fp64
          i < 1024 → a.els.length = 32 * k → b.els.length = 32 * k → x.length = k →
          (∀ j < k, productTerm (decodeNum f (a.els.getD (k * (i / 32) + j) 0)) (decodeNum f (b.els.getD (k * (i % 32) + j) 0)) (g.munit.tile m).w = .fin (x.getD j 0)) →
          (∀ n ≤ k, -(2 ^ (e.g - 1) : Nat) ≤ e.value + (x.take n).sum ∧ e.value + (x.take n).sum < (2 ^ (e.g - 1) : Nat)) →
          ∃ e' : Acc, (g'.munit.accs m)[i]? = some e' ∧ e'.value = e.value + x.sum ∧ e'.ovf = false ∧ e'.resolved = false)) ∧
  (∀ (s : State) (g p : Group) (c : Cmd) (m r : Nat) (core : Team), s.shaped = true → s.group? g.gid = some g → s.group? p.gid = some p → g.gid ≠ p.gid → g.phase.placed = true →
    s.sends g = some (c, m, r) → s.partner g = some (some p) → p.core = some core → core.live ≠ 0#1024 → p.phase ≠ .discarded →
    ∃ (u : State) (p' : Group), exec (.peerArrival g.gid) s = .next (u.settle g.gid) ∧ u.group? p.gid = some p' ∧ SameBytes s u ∧
      (p.munit.tileBad r = none → (p.munit.tile r).w = (g.munit.tile m).w → (p.munit.tile r).cls = (g.munit.tile m).cls → (p.munit.tile r).role = (g.munit.tile m).role →
        r < p.munit.tiles.length → (p'.munit.tile r).arrivals = min ((p.munit.tile r).arrivals + 1) 255) ∧
      ((p.munit.tile r).w ≠ (g.munit.tile m).w → r < p.munit.tiles.length → (p'.munit.tile r).refused = true ∧ (p'.munit.tile r).els = (p.munit.tile r).els))

/-! ### Memory survival -/

/-- WRITE_BACK, CHECK_DELTA, FERRY_STEP, HOME_HANDOFF, SCRUB_LINE, ERROR_COUNTER_HALVING, HBM_RETRY_REISSUE, ALERT, UNIT_FAILURE,
CHECK_RECOMPUTE, CLEAR_SWEEP and EPOCH_TICK complete and change no byte of memory (R398): a written-back line is dirty no more and its deltas are
sent, of what HBM stored before and stores now, while one on its way to a new home stays (R403); an acknowledged delta is gone; the Ferry locks a stripe, and then moves and unlocks
it; a handed-off line belongs to its new slice; the patrol goes on through the data and check lines of every stripe, correcting a line with one bad symbol; counters halve; a
retry is counted; an ALERT that recurs, the eighth ALERT of a channel within one second, and a failure, take a unit
out of service; a stale stripe is recomputed, and its deltas dropped; swept memory leaves the map; and the epoch advances once for each period (R153, R401 to
R412). The model's choices here: a failed row is repaired, and its counter is then clear (log 131); cleared bytes are zero from the command on, so that a sweep
changes none (log 68); channels of moored spreads go back into self-refresh as the epoch advances (log 62); and a line that has neither a place nor checks to stand
in stays in its slice (log 148). -/
def Obligations.SurvivalEventsComplete : Prop :=
  ∀ s : State,
    (∀ a d, (s.dirty.find? fun e => decide (e.space = .device) && e.addr == a) = some d → a < 2 ^ 48 → a % 128 = 0 →
      ((∀ x ∈ s.sv.handoffs, x.1 ≠ a) → s.placeless a = false → ∃ u : State, exec (.writeBack a false) s = .next u ∧ SameBytes s u ∧
        (∀ e ∈ u.dirty, e.space = .device → e.addr ≠ a) ∧ ∃ x, u.sv.deltas = s.sv.deltas ++ [x] ∧ x.stripe = a / 2048 ∧ x.line = a % 2048 / 128 ∧ x.waits = [16, 17] ∧
          x.old = d.old ∧ x.new.key = s.sealOf a ∧ ∀ c, c ∈ x.new.cells ↔ c ∈ s.mem ∧ a ≤ c.1 ∧ c.1 < a + 128) ∧
      ((∃ x ∈ s.sv.handoffs, x.1 = a) ∨ s.placeless a = true → exec (.writeBack a false) s = .next s)) ∧
    (∀ n d, s.sv.deltas[n / 2]? = some d → (∀ x ∈ s.sv.deltas, x.waits ≠ []) → ∃ u : State, exec (.checkDelta n) s = .next u ∧ SameBytes s u ∧
      u.sv.deltas = if d.waits.filter (· != 16 + n % 2) = [] then s.sv.deltas.eraseIdx (n / 2)
        else s.sv.deltas.set (n / 2) { d with waits := d.waits.filter (· != 16 + n % 2) }) ∧
    (∀ n, n < 4096 → (s.region n).state = .migrating → s.sv.selfRefresh = [] →
      let hpa := n * 2 ^ 28 + (s.region n).cursor * 2048
      (stripeOf hpa ∉ s.sv.locked → ∃ u : State, exec (.ferryStep n) s = .next u ∧ SameBytes s u ∧ u.sv.locked = stripeOf hpa :: s.sv.locked) ∧
      (stripeOf hpa ∈ s.sv.locked → s.stripeBusy hpa = false → s.toHand (s.region n) hpa = [] → (∀ x ∈ s.sv.handoffs, stripeOf x.1 ≠ stripeOf hpa) →
        (s.region n).cursor + 1 < 131072 → ∃ u : State, exec (.ferryStep n) s = .next u ∧ SameBytes s u ∧ stripeOf hpa ∉ u.sv.locked ∧
          (u.region n).cursor = (s.region n).cursor + 1 ∧ (u.region n).state = .migrating)) ∧
    (∀ a old new, (s.sv.handoffs.find? fun x => x.1 == a) = some (a, old, new) → ∃ u : State, exec (.homeHandoff a) s = .next u ∧ SameBytes s u ∧
      (∀ x ∈ u.sv.handoffs, x.1 ≠ a) ∧ (∀ d ∈ u.dirty, d.space = .device → d.addr = a → d.slice = new)) ∧
    (∀ l, l < 4096 * 131072 * 18 → (s.region (l / 18 / 131072)).state ≠ .retired → s.stripeLineBlocked (2048 * (l / 18)) (l % 18) = false →
      ∃ u : State, exec (.scrubLine l) s = .next u ∧ SameBytes s u ∧
        ((l, false) ∈ s.sv.weak → s.unitLost (2048 * (l / 18)) (l % 18) = false → (∀ d ∈ s.dirty, d.space = .device → l % 18 < 16 → d.addr ≠ 2048 * (l / 18) + 128 * (l % 18)) → ∀ w ∈ u.sv.weak, w.1 ≠ l) ∧
        (s.unhurt = true → s.nextScrub s.sv.scrubPos = some l →
          (∀ n, s.nextScrub (l + 1) = some n → u.sv.scrubPos = n ∧ u.sv.scrub = s.sv.scrub) ∧
          (s.nextScrub (l + 1) = none → u.sv.scrubPos = 0 ∧ u.sv.scrub = s.sv.scrub + 0x10000#32))) ∧
    (∃ u : State, exec .errorCounterHalving s = .next u ∧ SameBytes s u ∧ (∀ p ∈ u.sv.counters, ∃ n, (p.1, n) ∈ s.sv.counters ∧ p.2 = n / 2) ∧
      ∀ p ∈ s.sv.counters, 2 ≤ p.2 → (p.1, p.2 / 2) ∈ u.sv.counters) ∧
    (∀ id, s.outstanding id = true → assocGet s.sv.retries id 0 < 4 → ∃ u : State, exec (.hbmRetryReissue id) s = .next u ∧ SameBytes s u ∧ u.reqs = s.reqs ∧
      assocGet u.sv.retries id 0 = assocGet s.sv.retries id 0 + 1) ∧
    (∀ c, s.isRetired (.channel (c / 32) (c % 32)) = false → ∃ u : State, exec (.alert c true) s = .next u ∧ SameBytes s u ∧ u.isRetired (.channel (c / 32) (c % 32)) = true) ∧
    (∀ c, s.isRetired (.channel (c / 32) (c % 32)) = false → 7 ≤ (s.sv.alerts.filter fun a => decide (s.clock < a.2 + 1200000000) && a.1 == c).length →
      ∃ u : State, exec (.alert c false) s = .next u ∧ SameBytes s u ∧ u.isRetired (.channel (c / 32) (c % 32)) = true) ∧
    (∀ c, (s.sv.alerts.filter fun a => decide (s.clock < a.2 + 1200000000) && a.1 == c).length < 7 →
      ∃ u : State, exec (.alert c false) s = .next u ∧ u = { s with sv := { s.sv with alerts := (c, s.clock) :: s.sv.alerts.filter fun a => decide (s.clock < a.2 + 1200000000) } }) ∧
    (∀ m : MemUnit, (∀ a b c r, m ≠ .row a b c r) → ∃ u : State, exec (.unitFailure m) s = .next u ∧ SameBytes s u ∧ u.isRetired m = true) ∧
    (∀ a b c r, ∃ u : State, exec (.unitFailure (.row a b c r)) s = .next u ∧ SameBytes s u ∧ ∀ p ∈ u.sv.counters, p.1 ≠ .row a b c r) ∧
    (∀ st ∈ s.sv.stale, ∃ u : State, exec (.checkRecompute st) s = .next u ∧ SameBytes s u ∧ st ∉ u.sv.stale ∧ ∀ d ∈ u.sv.deltas, d.stripe ≠ st) ∧
    (∀ n, ∃ u : State, exec (.clearSweep n 0) s = .next u ∧ SameBytes s u ∧ ∀ c ∈ u.sv.clearing, c.first ≠ n) ∧
    (s.epochDue = true → ∃ u : State, exec .epochTick s = .next u ∧ u = { s with epoch := s.epoch + 1, sv := { s.sv with selfRefresh := u.sv.selfRefresh } } ∧
      ((∀ x ∈ s.sv.spreads, x.moored = []) → u.sv.selfRefresh = s.sv.selfRefresh)) ∧
    (s.epochDue = false → exec .epochTick s = .next s)

/-- RETIRE_BANK, RETIRE_CHANNEL, RETIRE_STACK, REPAIR_ROW, CLEAR, RETIRE_REGION, RETURN_STACK and ITENT0_READ complete, where SVCMD is not busy
and the world is secure: a unit that was in service is out of it; a repaired row has no line with one bad symbol, and its counter is clear; cleared memory reads zero,
unpoisoned, and no other byte changes; a region is RETIRED, its capacity joins the spare, and no byte outside it changes; a stack whose base die is TRUSTED is back; and the
read of ITENT0 returns the entry's low word and latches its high word for ITENT1. While SVCMD is busy the seven commands are discarded; one of another world on a unit or region
that holds secure memory, or on units of memory that a secure region holds, is refused with RESULT 2, and one on a unit that is out of service already with RESULT 4 (R406, R407, R410, R412).
The model's choices here: a command has its whole effect in the step that writes it, with BUSY set (log 34), a clear among them (log 68); a row's counter is cleared when the row
is repaired, and the bytes of a region that is retired are zero (log 131). -/
def Obligations.SurvivalCommandsComplete : Prop :=
  ∀ s : State, (s.sv.busy = true → ∀ i secure, i ∈ [Instr.retireBank secure, .retireChannel secure, .retireStack secure, .repairRow secure, .clear secure,
      .retireRegion secure, .returnStack secure] → exec i s = .next s) ∧
    (∃ u : State, exec .itent0Read s = .next u ∧
      let r := s.region (s.sv.itsel.toNat % 4096)
      u = { s with readData := BitVec.ofNat 32 (r.bits (s.lostOf r)), sv := { s.sv with itent1 := BitVec.ofNat 32 (r.bits (s.lostOf r) / 2 ^ 32) } }) ∧
    (s.sv.busy = false →
    (∀ i op m secure, ((i = Instr.retireBank secure ∧ op = 1) ∨ (i = .retireChannel secure ∧ op = 2) ∨ (i = .retireStack secure ∧ op = 3) ∨ (i = .repairRow secure ∧ op = 4)) →
      svUnit op (s.svArg 0) = some m →
      (secure = false → s.unitSecure m = true → exec i s = .next { s with sv := { s.sv with result := 2, busy := false } }) ∧
      (secure = true ∨ s.unitSecure m = false → s.isRetired m = true → exec i s = .next { s with sv := { s.sv with result := 4, busy := false } })) ∧
    (s.svArg 0 + s.svArg 1 ≤ 524288 → (∃ r ∈ s.sv.regions, r.world = true ∧ r.num * 128 < s.svArg 0 + s.svArg 1 ∧ s.svArg 0 < (r.num + 1) * 128) →
      exec (.clear false) s = .next { s with sv := { s.sv with result := 2, busy := false } }) ∧
    (s.svArg 0 < 4096 → (s.region (s.svArg 0)).world = true → exec (.retireRegion false) s = .next { s with sv := { s.sv with result := 2, busy := false } }) ∧
    (∀ k, svUnit 7 (s.svArg 0) = some (.stack k) → (∃ r ∈ s.sv.regions, r.world = true ∧ (s.spread r.spread).excludes.any (unitIn (.stack k)) = false) →
      exec (.returnStack false) s = .next { s with sv := { s.sv with result := 2, busy := false } }) ∧
    ((∀ x ∈ s.sv.regions, x.world = false) → exec (.clear false) s = exec (.clear true) s ∧ exec (.retireRegion false) s = exec (.retireRegion true) s ∧
      exec (.returnStack false) s = exec (.returnStack true) s) ∧
    (∀ i op m, ((i = Instr.retireBank true ∧ op = 1) ∨ (i = .retireChannel true ∧ op = 2) ∨ (i = .retireStack true ∧ op = 3)) →
      svUnit op (s.svArg 0) = some m → s.isRetired m = false →
      ∃ u : State, exec i s = .next u ∧ SameBytes s u ∧ u.isRetired m = true ∧ (u.sv.result = 0 ∨ u.sv.result = 3) ∧ u.sv.busy = true) ∧
    (∀ m, svUnit 4 (s.svArg 0) = some m → s.isRetired m = false → ∃ u : State, exec (.repairRow true) s = .next u ∧ SameBytes s u ∧ u.sv.result = 0 ∧
      (∀ p ∈ u.sv.counters, p.1 ≠ m) ∧ ∀ w ∈ u.sv.weak, w ∈ s.sv.weak ∧
      (w.2 = false → s.unitLost (w.1 / 18 * 2048) (w.1 % 18) = false → (s.placeUnits (w.1 / 18 * 2048) (w.1 % 18)).1 ≠ m)) ∧
    (s.svArg 0 + s.svArg 1 ≤ 524288 → ∃ u : State, exec (.clear true) s = .next u ∧ u.sv.result = 0 ∧ u.sv.busy = true ∧
      (∀ a, u.byteAt .device a = if s.svArg 0 * 2 ^ 21 ≤ a ∧ a < (s.svArg 0 + s.svArg 1) * 2 ^ 21 then 0#8 else s.byteAt .device a) ∧
      (∀ p ∈ u.poisoned, p.1 = .device → p.2.1 < s.svArg 0 * 2 ^ 21 ∨ (s.svArg 0 + s.svArg 1) * 2 ^ 21 ≤ p.2.1) ∧
      ∀ sp a, sp ≠ .device → u.byteAt sp a = s.byteAt sp a) ∧
    (s.svArg 0 < 4096 → (s.region (s.svArg 0)).state ≠ .retired → ∃ u : State, exec (.retireRegion true) s = .next u ∧ u.sv.result = 0 ∧
      (u.region (s.svArg 0)).state = .retired ∧ ((∀ r ∈ s.sv.regions, r.short = false) → u.sv.spare = min 536870912 (s.sv.spare + 2359296)) ∧
      (∀ a, u.byteAt .device a = if regionOf a = s.svArg 0 then 0#8 else s.byteAt .device a) ∧ ∀ sp a, sp ≠ .device → u.byteAt sp a = s.byteAt sp a) ∧
    (∀ k, svUnit 7 (s.svArg 0) = some (.stack k) → MemUnit.stack k ∈ s.sv.retired → (s.die (4 + k)).state = .trusted →
      ∃ u : State, exec (.returnStack true) s = .next u ∧ SameBytes s u ∧ u.sv.result = 0 ∧ MemUnit.stack k ∉ u.sv.retired))

/-! ### Translation -/

/-- FSROOT_WRITE, RANGE_UPDATE, RANGE_UPDATE_DONE, PUBLISH_ENTRY_UPDATE, PRQR_ADVANCE and PAGE_REPLY complete: a root register takes an image
with no MBZ bit set, the device's translations are discarded, and the old root serves until the accesses that used them are performed; a range entry becomes the staged image, with BUSY until the accesses that
used the old one are performed; a publish entry whose range one range entry maps becomes the staged one, with CUR 0, and RESULT says why it does not; PRQR takes its value; and a reply that names an outstanding
request consumes one reply and ends that request, and each of its waiters goes on, or is denied: a held line is translated again and sent, or traps S2DENY; a
fetch is made again, or traps S2DENY; a matrix access is tried again, or its lines in the unit denied; a server goes on, or halts a queue whose descriptor or slot it could not read;
a write of QSTATE or ERRCNT is made again, or left out; an access from outside is tried again, or is answered with no data (R383, R386, R387, R392 to
R394, R441). The model's choice here: PUBLISH_ENTRY_UPDATE has its whole effect in the step that writes it, with BUSY set (log 34). -/
def Obligations.TranslationEventsComplete : Prop :=
  ∀ (s : State) (vd : Nat) (v : VDev), s.vds[vd]? = some v →
    let pend : List Nat × Option (Nat × List Nat) :=
      let ids := ((v.oldRoot.map (·.2)).getD [] ++ (s.discardTlb vd none).2).filter s.outstanding
      (ids, if ids = [] then none else some ((s.rootPending vd).getD v.root, ids))
    (∀ w : Word, w.toNat % 4096 = 0 → ∃ (u : State) (v' : VDev), exec (.fsrootWrite vd 0 w) s = .next u ∧ SameBytes s u ∧ u.vds[vd]? = some v' ∧
      v' = { v with fsroot0 := w, oldRoot := pend.2 } ∧ (∀ e ∈ u.tlb, e.vd ≠ vd) ∧ ∀ e ∈ u.walkCache, e.vd ≠ vd) ∧
    (∀ w : Word, w.toNat < 65536 → ∃ (u : State) (v' : VDev), exec (.fsrootWrite vd 1 w) s = .next u ∧ SameBytes s u ∧ u.vds[vd]? = some v' ∧
      v' = { v with fsroot1 := w, oldRoot := pend.2 } ∧ (∀ e ∈ u.tlb, e.vd ≠ vd) ∧ ∀ e ∈ u.walkCache, e.vd ≠ vd) ∧
    (∀ w : Word, w.toNat % 4096 ≠ 0 → exec (.fsrootWrite vd 0 w) s = .next s) ∧ (∀ w : Word, 65536 ≤ w.toNat → exec (.fsrootWrite vd 1 w) s = .next s) ∧
    (∀ w : Word, v.rtBusy = none → bitsOf w.toNat 6 25 = 0 → bitsOf w.toNat 0 6 < 48 → rangeMbz (stagedBits v.rtstage).toNat = true →
      ∃ (u : State) (v' : VDev), exec (.rangeUpdate vd w) s = .next u ∧ SameBytes s u ∧ u.vds[vd]? = some v' ∧
        v' = { v with ranges := v.ranges.set (bitsOf w.toNat 0 6) (stagedBits v.rtstage), rtBusy := v'.rtBusy } ∧
        (∀ e ∈ u.tlb, e.vd = vd → bitsOf w.toNat 0 6 ∉ e.via) ∧ (∀ e ∈ u.walkCache, e.vd = vd → bitsOf w.toNat 0 6 ∉ e.via) ∧
        ∃ ids, v'.rtBusy = some ids ∧ ∀ id, id ∈ ids ↔ ∃ r ∈ s.reqs, r.vd = vd ∧ bitsOf w.toNat 0 6 ∈ r.via ∧ r.root = id) ∧
    (∀ ids, v.rtBusy = some ids → (∀ id ∈ ids, s.outstanding id = false) → ∃ (u : State) (v' : VDev), exec (.rangeUpdateDone vd) s = .next u ∧ SameBytes s u ∧
      u.vds[vd]? = some v' ∧ v' = { v with rtBusy := none }) ∧
    (∀ ids id, v.rtBusy = some ids → id ∈ ids → s.outstanding id = true → exec (.rangeUpdateDone vd) s = .next s) ∧
    (∀ w : Word, v.pubBusy = false → bitsOf w.toNat 3 25 = 0 → pubMbz (stagedBits v.pubstage).toNat = true →
      let e := stagedBits v.pubstage &&& ~~~BitVec.ofNat 128 (2 ^ 96)
      (rangeLen e ≠ 0 → (∃ k r, v.ranges[k]? = some r ∧ rangeGbase r ≤ rangeGbase e ∧ rangeGbase e + rangeLen e ≤ rangeGbase r + rangeLen r ∧
          ∀ j < k, overlaps e (v.ranges.getD j 0#128) = false) ∧
        ∀ k < 8, k ≠ bitsOf w.toNat 0 3 → overlaps e (v.pubs.getD k 0#128) = false) →
      ∃ (u : State) (v' : VDev), exec (.publishEntryUpdate vd w) s = .next u ∧ SameBytes s u ∧ u.vds[vd]? = some v' ∧
        v' = { v with pubs := v.pubs.set (bitsOf w.toNat 0 3) e, pubResult := 0, pubBusy := true }) ∧
    (∀ w : Word, v.pubBusy = false → bitsOf w.toNat 3 25 = 0 → pubMbz (stagedBits v.pubstage).toNat = false →
      exec (.publishEntryUpdate vd w) s = .next (s.setVd vd { v with pubResult := 2 })) ∧
    (∀ (w : Word) (k : Nat), v.pubBusy = false → bitsOf w.toNat 3 25 = 0 → pubMbz (stagedBits v.pubstage).toNat = true → k < 8 → k ≠ bitsOf w.toNat 0 3 →
      overlaps (stagedBits v.pubstage &&& ~~~BitVec.ofNat 128 (2 ^ 96)) (v.pubs.getD k 0#128) = true →
      exec (.publishEntryUpdate vd w) s = .next (s.setVd vd { v with pubResult := 1 })) ∧
    (∀ w : Word, ∃ (u : State) (v' : VDev), exec (.prqrAdvance vd w) s = .next u ∧ u.vds[vd]? = some v' ∧ v'.prqr = w ∧ (v.pageReqs = [] → v' = { v with prqr := w })) ∧
    (∀ p, v.rpqr ≠ v.rpqw →
      let bits := s.host.value (VDev.base v.rpq + 16 * (v.rpqr.toNat % 2 ^ bitsOf v.rqcfg.toNat 4 4)) 16
      (v.pageReqs.find? fun r => r.written && r.rid == bitsOf bits 0 16 && r.die == bitsOf bits 16 8) = some p →
      bitsOf bits 26 102 = 0 → bitsOf bits 24 2 < 2 →
      let deny := bitsOf bits 24 2 = 1
      let v' : VDev := { v with rpqr := v.rpqr + 1#32, pageReqs := v.pageReqs.filter fun r => !(r.rid == p.rid && r.die == p.die) }
      let b := (s.setVd vd v').popChoice
      (p.waiters = [] → exec (.pageReply vd) s = .next (s.setVd vd v')) ∧
      (∀ r gpa place, p.waiters = [.line r gpa] → ¬deny → r.action ≠ .ptw → b.heldAnswer r = .ok place →
        ∃ (u : State) (q : Req), exec (.pageReply vd) s = .next (u.settle r.gid) ∧ SameBytes s u ∧ u.vds[vd]? = some v' ∧ u.reqs = s.reqs ++ [q] ∧
          q = { r with place := place, via := q.via }) ∧
      (∀ r gpa o tm, s.shaped = true → p.waiters = [.line r gpa] → deny → r.action ≠ .ptw → (∀ n, r.action ≠ .await n) → s.outOf r = some o →
        ((s.group? r.gid).bind fun g => g.team? r.tid) = some tm → (∀ x ∈ tm.faults, x.op ≠ o.order) →
        ∃ (u : State) (tm' : Team), exec (.pageReply vd) s = .next (u.settle r.gid) ∧ SameBytes s u ∧ u.vds[vd]? = some v' ∧ u.reqs = s.reqs ∧
          ((u.group? r.gid).bind fun g => g.team? r.tid) = some tm' ∧
          ∃ x ∈ tm'.faults, x.cause = 0x14 ∧ x.op = o.order ∧ x.pc = o.pc ∧ x.addr = r.firstAddr ∧ x.detail = BitVec.ofNat 32 (gpa / 65536)) ∧
      (∀ a g tm f gpa, s.shaped = true → p.waiters = [.frag a] → s.agent? a = some (g, tm, f) → f.park = .fetch gpa →
        ∃ (u : State) (g' : Group) (tm' : Team) (f' : Frag), exec (.pageReply vd) s = .next u ∧ SameBytes s u ∧ u.vds[vd]? = some v' ∧ u.agent? a = some (g', tm', f') ∧
          (¬deny → f'.park = .none ∧ f'.pc = f.pc) ∧
          (deny → f'.park = .trap ∧ ∃ x ∈ tm'.faults, x.cause = 0x14 ∧ x.pc = f.pc ∧ x.addr = f.pc.toNat ∧ x.detail = BitVec.ofNat 32 (gpa / 65536))) ∧
      (∀ gid g c cs, p.waiters = [.matrix gid] → s.group? gid = some g → g.munit.queue = c :: cs →
        ∃ (u : State) (g' : Group), exec (.pageReply vd) s = .next u ∧ SameBytes s u ∧ u.vds[vd]? = some v' ∧ u.group? gid = some g' ∧
          g'.munit.queue =
            { c with miss := c.miss.filter (· ≠ (p.die, p.unit)), missing := c.missing.filter (·.2 / 2 ^ 21 ≠ p.unit)
                     deny := if deny then c.missing.filter (·.2 / 2 ^ 21 = p.unit) ++ c.deny else c.deny } :: cs) ∧
      (∀ q, p.waiters = [.count q] → exec (.pageReply vd) s = .next (if deny then b else b.countError q)) ∧
      (∀ q x, p.waiters = [.qstate q] → s.queue? q = some x → exec (.pageReply vd) s = .next (if deny then b else b.writeQstate q x.qstate)) ∧
      (∀ q x, p.waiters = [.queue q] → s.queue? q = some x → x.miss = some (p.die, p.unit) → x.missFor = .slot → x.halted = false → s.serverUp q = true → (∀ e ∈ s.side, e.2.1 ≠ q) →
        (∀ l ∈ s.launches, l.queue ≠ q) →
        ∃ (u : State) (x' : Queue), exec (.pageReply vd) s = .next u ∧ u.queue? q = some x' ∧ x'.miss = none ∧ x'.head = x.head ∧ (x'.halted = true ↔ deny)) ∧
      (p.waiters = [.outside vd] → ∃ u : State, exec (.pageReply vd) s = .next u ∧ SameBytes s u ∧ u.vds[vd]? = some v' ∧
        (¬deny → u.hostReply = s.hostReply ∧ u.outside = s.outside.map fun x => if x.vd = vd ∧ x.miss = some (p.die, p.unit) then { x with miss := none } else x) ∧
        (deny → u.outside = s.outside.filter fun x => !(x.vd == vd && x.miss == some (p.die, p.unit))) ∧
        (∀ x ∈ s.outside, ∀ gpa a, deny → x.vd = vd → x.miss = some (p.die, p.unit) → x.what = .aperture gpa a → u.hostReply = none))) ∧
    (v.rpqr = v.rpqw → exec (.pageReply vd) s = .next s)

/-! ### Partitions and keys -/

/-- CLQOWN and CLSPB take a value whose fields are legal and which changes no quadrant that holds a resident group, evicting what saved groups
left in place on the cluster, and are discarded whole otherwise, a grant going with the quadrant that gets an owner; VDPOL, VDL2, the L2 walk (which drops the device's lines that lie at another set than
the new one), the refill of tokens, VDRESET (which ends the device's launches with STATUS 4 and halts its queues), the creation of a device, quiescence and the key commands complete;
a policy written from the other world takes SCEIL of a device of that world and nothing of a secure one, and the destroying of a key that a range entry
holds is refused with RESULT 2 (R371, R372, R380, R415 to R424). The model's choices here: the key commands have their whole effect in the step that writes
them, with BUSY set (logs 34 and 68); every saved group of the cluster is evicted at once (log 96); the row that creates a device gives its pool (log 58); a device with no
group placed is QUIESCED in the step that asks (log 59); and a device stays quiescent while mooring or a temperature hold asks for it too (logs 109 and 75). -/
def Obligations.PartitionEventsComplete : Prop :=
  (∀ (s : State) (c : Nat) (cl : Cluster) (w : Word), s.clusters[c]? = some cl →
    let free (k : Nat) : Prop := ∀ g ∈ s.groups, g.cluster = c → g.phase.placed = true → ∀ t ∈ g.allTeams, t.quadrant ≠ k
    ((∀ k < 4, w.getLsbD (8 * k + 6) = false ∧ (ownerIn cl.own k = ownerIn w k ∨ free k)) →
      ∃ u : State, exec (.clqownWrite c w) s = .next u ∧ SameBytes s u ∧
        u = ({ s with clusters := s.clusters.set c { cl with own := w, grants := cl.grants.filter fun x => (ownerIn w x.quad).isNone } } : State).evictAll
          fun g => g.cluster == c) ∧
    ((∃ k < 4, w.getLsbD (8 * k + 6) = true) → exec (.clqownWrite c w) s = .next s) ∧
    (∀ k < 4, ownerIn cl.own k ≠ ownerIn w k → ¬free k → exec (.clqownWrite c w) s = .next s) ∧
    (bitsOf w.toNat 24 8 = 0 → bitsOf w.toNat 0 6 + bitsOf w.toNat 6 6 + bitsOf w.toNat 12 6 + bitsOf w.toNat 18 6 = 48 →
      (∀ k < 4, banksIn cl.spb k = banksIn w k ∨ free k) →
      ∃ u : State, exec (.clspbWrite c w) s = .next u ∧ SameBytes s u ∧
        u = ({ s with clusters := s.clusters.set c { cl with spb := w } } : State).evictAll fun g => g.cluster == c) ∧
    (bitsOf w.toNat 24 8 ≠ 0 → exec (.clspbWrite c w) s = .next s) ∧
    (∀ k < 4, banksIn cl.spb k ≠ banksIn w k → ¬free k → exec (.clspbWrite c w) s = .next s) ∧
    (bitsOf w.toNat 0 6 + bitsOf w.toNat 6 6 + bitsOf w.toNat 12 6 + bitsOf w.toNat 18 6 ≠ 48 → exec (.clspbWrite c w) s = .next s)) ∧
  (∀ (s : State) (vd : Nat) (v : VDev), s.vds[vd]? = some v →
    (∀ w : Word, w.toNat < 16 → 4 ≤ w.toNat % 8 → w.toNat % 8 < 7 → ∃ u : State, exec (.vdpolWrite vd w true) s = .next u ∧ u = s.setVd vd { v with pol := w }) ∧
    (∀ w : Word, w.getLsbD 3 = true ∨ v.pol.getLsbD 3 = true → exec (.vdpolWrite vd w false) s = .next s) ∧
    (∀ w : Word, w.toNat < 16 → 4 ≤ w.toNat % 8 → w.toNat % 8 < 7 → w.getLsbD 3 = false → v.pol.getLsbD 3 = false →
      exec (.vdpolWrite vd w false) s = .next (s.setVd vd { v with pol := w })) ∧
    (∀ w : Word, v.l2Busy = false → bitsOf w.toNat 13 18 = 0 → bitsOf w.toNat 9 4 ≤ 9 → bitsOf w.toNat 0 9 % 2 ^ bitsOf w.toNat 9 4 = 0 →
      ∃ u : State, exec (.vdl2Write vd w) s = .next u ∧ u = s.setVd vd { v with l2 := w &&& 0x7FFFFFFF#32, l2Busy := true }) ∧
    (v.l2Busy = true → s.sv.handoffs = [] → s.unhurt = true → ∃ u : State, exec (.l2ShareWalkDone vd) s = .next u ∧ SameBytes s u ∧ (u.vds[vd]?.map (·.l2Busy)) = some false ∧
      (∀ x ∈ u.cached, x ∈ s.cached ∧ (x.vd = vd → x.set = s.setOf vd x.addr)) ∧
      ∀ x ∈ s.cached, x.vd = vd → x.set ≠ s.setOf vd x.addr → ∀ d ∈ u.dirty, d.space = x.space → d.addr ≠ x.addr) ∧
    (v.l2Busy = false → exec (.l2ShareWalkDone vd) s = .next s) ∧
    (∀ us, ∃ u : State, exec (.tokenRefill vd us) s = .next u ∧
      u = s.setVd vd { v with tokens := min (v.rate.toNat % 65536) (v.tokens + 4 * (v.rate.toNat / 65536) * us) }) ∧
    (v.resetDone = true → ∃ u : State, exec (.vdReset vd 1#32) s = .next u ∧ (∀ g ∈ u.groups, g.vd ≠ vd) ∧ (∀ r ∈ u.reqs, r.vd ≠ vd) ∧
      (∀ l ∈ u.launches, l.vd = vd → l.status = 4) ∧ (∀ x ∈ u.queues, x.id.vd = vd → x.halted = true) ∧ (u.vds[vd]?.map (·.resetDone)) = some false) ∧
    (∀ w : Word, v.resetDone = false ∨ 4 ≤ w.toNat ∨ w.getLsbD 0 = false → exec (.vdReset vd w) s = .next s) ∧
    (∃ u : State, exec (.vdResetDone vd) s = .next u ∧ u = s.setVd vd { v with resetDone := true }) ∧
    (∀ p, s.creationRefused vd p = false → ∃ (u : State) (v' : VDev), exec (.vdCreate vd p) s = .next u ∧ u = s.setVd vd v' ∧ v'.created = true ∧ v'.pool = p.pool ∧
      v'.sched0 = p.sched0 ∧ v'.sched1 = p.sched1 ∧ v'.save = [p.save0, p.save1, p.save2] ∧ v'.cls = p.cls.toNat ∧
      v'.qeff = BitVec.ofNat 32 (max (bitsOf p.sched0.toNat 16 16) ((8832 * ((s.mayOccupy vd p.pool + 215) / 216) + 1199) / 1200)) ∧ v'.ranges = v.ranges) ∧
    (∃ (u : State) (v' : VDev), exec (.quiesceRequest vd) s = .next u ∧ u.vds[vd]? = some v' ∧ v'.quiesce = true ∧ v'.asked = true ∧
      ((∀ g ∈ s.groups, g.vd = vd → g.phase.placed = false) → v'.quiesced = true ∧ SameBytes s u)) ∧
    (v.quiesce = true → v.moor = .running → vd ∉ s.trust.held → (∀ x ∈ s.queues, x.id.vd = vd → x.rewritten = false) →
      ∃ (u : State) (v' : VDev), exec (.quiesceRelease vd) s = .next u ∧ u.vds[vd]? = some v' ∧ SameBytes s u ∧
        v' = { v with asked := false, quiesce := false, quiesced := false, pass := v'.pass } ∧ v.pass ≤ v'.pass) ∧
    (v.quiesce = false ∨ v.moor ≠ .running ∨ vd ∈ s.trust.held → exec (.quiesceRelease vd) s = .next (s.setVd vd { v with asked := false }))) ∧
  (∀ (s : State) (w : Word), s.trust.keyBusy = false → bitsOf w.toNat 10 18 = 0 → bitsOf w.toNat 6 2 = 0 →
    (bitsOf w.toNat 8 2 = 1 → ∃ u : State, exec (.keyInstall w true) s = .next u ∧ SameBytes s u ∧ u.trust.keyBusy = true ∧ u.trust.keyResult = 0 ∧
      (u.trust.keys.find? fun k => k.1 == bitsOf w.toNat 0 6) = some (bitsOf w.toNat 0 6, s.trust.keyGen, s.trust.keydata) ∧
      ∀ k ∈ s.trust.keys, k.1 ≠ bitsOf w.toNat 0 6 → k ∈ u.trust.keys) ∧
    (bitsOf w.toNat 8 2 = 2 → (∀ v ∈ s.vds, ∀ e ∈ v.ranges, rangeLen e ≠ 0 → rangeKeyid e ≠ bitsOf w.toNat 0 6) →
      let first := (s.trust.keyargs.getD 0 0#32).toNat
      let count := (s.trust.keyargs.getD 1 0#32).toNat
      first + count ≤ 524288 → ∃ u : State, exec (.keyDestroy w true) s = .next u ∧ u.trust.keyResult = 0 ∧ (∀ k ∈ u.trust.keys, k.1 ≠ bitsOf w.toNat 0 6) ∧
        (∀ d ∈ u.dirty, d.space = .device → d.keyid ≠ bitsOf w.toNat 0 6) ∧ (∀ c ∈ u.cached, c.space = .device → c.keyid ≠ bitsOf w.toNat 0 6) ∧ ∀ a, first * 2 ^ 21 ≤ a → a < (first + count) * 2 ^ 21 → u.byteAt .device a = 0#8) ∧
    (bitsOf w.toNat 8 2 = 2 → (∃ v ∈ s.vds, ∃ e ∈ v.ranges, rangeLen e ≠ 0 ∧ rangeKeyid e = bitsOf w.toNat 0 6) →
      exec (.keyDestroy w true) s = .next { s with trust := { s.trust with keyResult := 2, keyBusy := false } }) ∧
    exec (.keyInstall w false) s = .next s ∧ exec (.keyDestroy w false) s = .next s)

/-! ### Trust, power and the outside world -/

/-- ATTESTATION and its timeout, DIE_RESET and its completion, DIE_SILENCE, KEY_ROLLOVER, OLD_KEY_RETIRE, FLIT_AUTH_FAILURE, WLOG_CLEAR,
WLOGSTAT_READ, POWER_SAMPLE, THERMAL_EVENT, MOOR, MOOR_COMPLETE, WAKE, WAKE_COMPLETE and SELF_REFRESH_EXIT complete: the states of dies, links,
devices and the throttle change as stated, an old link key stays until every flit sealed under it has been acknowledged, and a W2 device's regions begin to
move to a moored spread with room, or it moors in the W1 state (R428 to R436). The model's choices
here: DIE_RESET of a compute die with no group placed re-homes its slices and reads RESETTING in the same step (log 73), a choice of the oracle says whether a
rekey fails (log 61), the spare is short while it is not whole (log 101), and WAKE_COMPLETE and the end of a temperature hold resume a device that nothing else keeps
quiescent (logs 109 and 75). -/
def Obligations.TrustAndPowerEventsComplete : Prop :=
  (∀ (s : State) (n : Nat) (d : Die), s.trust.dies[n]? = some d → n ≠ 3 → n < 16 →
    (∀ o, d.state = .unattested → ∃ u : State, exec (.attestation n o) s = .next u ∧ (u.die n).state = .attesting ∧ SameBytes s u) ∧
    (d.state = .attesting → ∃ u : State, exec (.attestation n .pass) s = .next u ∧ (u.die n).state = .trusted ∧ (u.die n).fails = false ∧ SameBytes s u) ∧
    (∀ i, i = Instr.attestation n .fail ∨ i = .attestationTimeout n → d.state = .attesting →
      ∃ u : State, exec i s = .next u ∧ SameBytes s u ∧ (u.die n).fails = true ∧ (u.die n).state = if d.fails then .quarantined else .unattested) ∧
    (d.state = .trusted → (n < 3 → ∀ g ∈ s.groups, g.phase.placed = true → g.cluster / 72 ≠ n) →
      ∃ u : State, exec (.dieReset (BitVec.ofNat 32 n)) s = .next u ∧ (u.die n).state = .resetting ∧ (u.die n).resets = min (d.resets + 1) 65535) ∧
    (d.state = .resetting → ∃ u : State, exec (.dieResetComplete n) s = .next u ∧ u = s.setDie n { d with state := .unattested }) ∧
    (d.state = .trusted → ∃ u : State, exec (.dieSilence n) s = .next u ∧ (u.die n).state = .resetting ∧
      (n < 3 → ∀ g ∈ u.groups, g.phase.placed = true → g.cluster / 72 ≠ n))) ∧
  (∀ (s : State) (link dir : Nat) (l : LinkDir), s.trust.links[2 * link + dir % 2]? = some l →
    (l.keyed = true → l.oldKey = false → ∃ u : State, exec (.keyRollover link dir) s = .next u ∧ SameBytes s u ∧
      u.linkDir link dir = { l with kix := !l.kix, oldKey := true, flits := 0, unacked := 0, oldUnacked := l.unacked }) ∧
    (l.oldKey = true → l.oldUnacked = 0 → ∃ u : State, exec (.oldKeyRetire link dir) s = .next u ∧ u.linkDir link dir = { l with oldKey := false } ∧ SameBytes s u) ∧
    (l.oldKey = false ∨ l.oldUnacked ≠ 0 → exec (.oldKeyRetire link dir) s = .next s) ∧
    (l.keyed = true → (l.fails.filter fun t => decide (s.clock < t + 1200000)).length < 7 → ∃ u : State, exec (.flitAuthFailure link dir) s = .next u ∧ SameBytes s u ∧
      u.linkDir link dir = { l with fails := s.clock :: l.fails.filter fun t => decide (s.clock < t + 1200000) }) ∧
    (l.keyed = true → 7 ≤ (l.fails.filter fun t => decide (s.clock < t + 1200000)).length → s.oracle.headD 0 ≠ 1 →
      ∃ u : State, exec (.flitAuthFailure link dir) s = .next u ∧ SameBytes s u ∧
        u.linkDir link dir = { keyed := true, kix := false, oldKey := false, flits := l.unacked + l.oldUnacked, unacked := l.unacked + l.oldUnacked, oldUnacked := 0, fails := [] })) ∧
  (∀ s : State,
    (∀ w : Word, bitsOf w.toNat 6 25 = 0 → w.getLsbD 31 = true → ∃ u : State, exec (.wlogClear w true) s = .next u ∧
      u = { s with trust := { s.trust with wlog := [], wlogIndex := w.toNat % 64 } }) ∧
    (∀ w : Word, exec (.wlogClear w false) s = .next s) ∧
    (∃ u : State, exec (.wlogstatRead true) s = .next u ∧
      u = { s with readData := BitVec.ofNat 32 (s.trust.wlogLost * 65536 + s.trust.wlog.length), trust := { s.trust with wlogLost := 0 } }) ∧
    (∀ p, ∃ u : State, exec (.powerSample p) s = .next u ∧ SameBytes s u ∧ u.trust.pwrnow = min p 65535 ∧
      u.trust.level = if s.trust.pwrlim < p then min 7 (s.trust.level + 1) else if p * 100 < s.trust.pwrlim * 95 then s.trust.level - 1 else s.trust.level) ∧
    (∀ n t, n < s.trust.dies.length → 115 < t → s.trust.hold = false → ∃ u : State, exec (.thermalEvent n t) s = .next u ∧ u.trust.hold = true ∧ (u.die n).temp = t ∧
      ∀ d < 64, d < s.vds.length → (s.vd d).created = true → (u.vd d).quiesce = true) ∧
    (∀ n t, t < 95 → s.trust.hold = true → (∀ k d, s.trust.dies[k]? = some d → k ≠ n → d.temp < 95) → (∀ x ∈ s.queues, x.rewritten = false) →
      ∃ u : State, exec (.thermalEvent n t) s = .next u ∧
      u.trust.hold = false ∧ SameBytes s u) ∧
    (∀ c, ∃ u : State, exec (.selfRefreshExit c) s = .next u ∧ SameBytes s u ∧ c ∉ u.sv.selfRefresh)) ∧
  (∀ (s : State) (vd : Nat) (v : VDev), s.vds[vd]? = some v →
    (v.created = true → v.moor = .running → ∃ (u : State) (v' : VDev), exec (.moor vd 0x10#32) s = .next u ∧ u.vds[vd]? = some v' ∧ v'.moor = .mooring ∧ v'.quiesce = true) ∧
    (v.moor = .mooring → v.quiesced = true → v.cls ≠ 2 → ∃ (u : State) (v' : VDev), exec (.moorComplete vd) s = .next u ∧ u.vds[vd]? = some v' ∧ v'.moor = .moored ∧ SameBytes s u ∧
      (v.cls ≠ 0 → ∀ c ∈ u.clusters, ∀ g ∈ c.grants, g.vd ≠ vd)) ∧
    (v.moor = .mooring → v.quiesced = true → v.cls = 2 → (∀ n ∈ v.regionsHeld s, (s.region n).state ≠ .migrating) →
      let room := s.mooredRoom (v.regionsHeld s).length
      (s.gathered v = true ∨ s.sv.spare < fullSpare ∨ room = none → ∃ (u : State) (v' : VDev), exec (.moorComplete vd) s = .next u ∧ u.vds[vd]? = some v' ∧
        v'.moor = .moored ∧ SameBytes s u ∧ (∀ c ∈ u.clusters, ∀ g ∈ c.grants, g.vd ≠ vd) ∧ u.sv.regions = s.sv.regions ∧
        (s.gathered v = true → s.reqs = [] → s.sv.called = [] → ∀ k < 8, u.quiet (56 + k) = true → ∀ c ∈ (s.spread (56 + k)).moored, c ∈ u.sv.selfRefresh)) ∧
      (∀ x, s.gathered v = false → fullSpare ≤ s.sv.spare → room = some x → ∃ u : State, exec (.moorComplete vd) s = .next u ∧ SameBytes s u ∧ u.vds = s.vds ∧
        ∀ n ∈ v.regionsHeld s, (u.region n).state = .migrating ∧ (u.region n).spread = (s.region n).spread ∧ (u.region n).nspread = x.num)) ∧
    (v.moor = .moored ∨ v.moor = .mooring → ∃ u : State, exec (.wake vd 1#32) s = .next u ∧ u = s.setVd vd { v with moor := .waking, moorReq := false }) ∧
    (v.moor = .waking → (∀ x ∈ s.queues, x.id.vd = vd → x.rewritten = false) → ∃ (u : State) (v' : VDev), exec (.wakeComplete vd) s = .next u ∧ u.vds[vd]? = some v' ∧ SameBytes s u ∧
      v' = if v.quiesce && !v.asked && !s.trust.held.contains vd then { v with moor := .running, quiesce := false, quiesced := false, pass := v'.pass }
        else { v with moor := .running }))

/-- COLD_START and WARM_START complete: with the I/O die sound the package runs, its device memory reads zero, no key is held, and every die but
those that fail is TRUSTED, but that one QUARANTINED before a warm start stays so; a warm start is cold after COLDNEXT or three that did not complete; without the I/O die,
or where a warm start does not complete, the package does not run. COMPANION_ACCESS, PEER_INBOUND_APPEND and
REGISTER_WRITE complete: a read, write or compare-and-swap of host or companion memory, or through an aperture whose range allows it, answers the bytes that it finds and
stores its own; one that misses, or whose line is not free, or that a held one comes before, is held, and die 3 not being TRUSTED answers no data; an append writes its slot
with RDY last and advances WIDX; a register takes a legal value, and one that is read-only, or secure, or given an illegal value keeps its own (R11, R160,
R371, R433, R437 to R446). The model's choices here: host and companion memory stand across a start (log 76), each access and append is performed in one step
(log 80), the order of outside accesses (log 133), a companion access that misses asks at die 0 (log 33), a reserved OP of SVCMD has RESULT 1 in the writing step
(log 34), and RTSTAGE takes every word, MBZ bits too (log 79). -/
def Obligations.StartsAndOutsideAccessesComplete : Prop :=
  (∀ (s : State) (failing : List Nat) (i : Instr), (i = .coldStart failing ∨ i = .warmStart failing true) →
    let cold : Prop := i = .coldStart failing ∨ s.trust.coldNext = true ∨ 3 ≤ s.trust.warmFails
    (3 ∉ failing → ∃ u : State, exec i s = .next u ∧ u.trust.phase = .running ∧ u.mem = [] ∧ u.trust.keys = [] ∧ u.groups = [] ∧ u.launches = [] ∧
      (∀ n < 16, (n ∈ failing ∨ ¬cold ∧ (s.die n).state = .quarantined → (u.die n).state = .quarantined) ∧
        (n ∉ failing → cold ∨ (s.die n).state ≠ .quarantined → (u.die n).state = .trusted)) ∧
      (u.trust.cold = true ↔ cold) ∧ u.companion = s.companion ∧ u.host = s.host) ∧
    (3 ∈ failing → ∃ u : State, exec i s = .next u ∧ u.trust.phase = .failed ∧ u.mem = [] ∧ u.trust.keys = [] ∧ u.groups = [] ∧ (u.trust.cold = true ↔ cold) ∧
      u.companion = s.companion ∧ u.host = s.host)) ∧
  (∀ (s : State) (failing : List Nat), 3 ∉ failing → s.trust.coldNext = false → s.trust.warmFails < 3 →
    ∃ u : State, exec (.warmStart failing false) s = .next u ∧ u.trust.phase = .failed ∧ u.trust.warmFails = s.trust.warmFails + 1 ∧ u.trust.cold = false) ∧
  (∀ (s : State) (a : HostAccess), s.canonical = true →
    let len := match a with | .read n => n | .write data => data.length | .swap old _ => old.length
    let kind : Access := match a with | .read _ => .read | _ => .write
    let out (found : List Byte) : List Byte := match a with | .read _ => [] | .write data => data | .swap old new => if found = old then new.take old.length else []
    let found (sp : Space) (addr : Nat) : List Byte := (List.range len).map fun k => s.byteAt sp (addr + k)
    (∀ addr, let before := (List.range len).map fun k => s.host.get (addr + k)
      ∃ u : State, exec (.companionAccess .host addr a) s = .next u ∧ u.hostReply = some before ∧ (∀ sp x, u.byteAt sp x = s.byteAt sp x) ∧
      ∀ x, u.host.get x = if addr ≤ x ∧ x < addr + (out before).length then (out before).getD (x - addr) 0#8 else s.host.get x) ∧
    (∀ addr, let before := found .tier2 addr
      ∃ u : State, exec (.companionAccess .tier2 addr a) s = .next u ∧ u.hostReply = some before ∧ (∀ x, u.host.get x = s.host.get x) ∧
      (∀ sp x, sp ≠ .tier2 → u.byteAt sp x = s.byteAt sp x) ∧
      ∀ x, u.byteAt .tier2 x = if addr ≤ x ∧ x < addr + (out before).length then (out before).getD (x - addr) 0#8 else s.byteAt .tier2 x) ∧
    (∀ vd gpa, s.outsideUp = false → exec (.companionAccess (.aperture vd) gpa a) s = .next { s with hostReply := none }) ∧
    (∀ vd gpa, s.outsideUp = true → (∃ x ∈ s.outside, s.holdsBack x vd (.aperture gpa a) = true) →
      exec (.companionAccess (.aperture vd) gpa a) s = .next { s with outside := s.outside ++ [{ vd := vd, what := .aperture gpa a, miss := none }] }) ∧
    (∀ vd gpa, s.outsideUp = true → (∀ x ∈ s.outside, s.holdsBack x vd (.aperture gpa a) = false) → 0 < len → gpa % 128 + len ≤ 128 → (s.vd vd).range gpa kind = .miss →
      ∃ u : State, exec (.companionAccess (.aperture vd) gpa a) s = .next u ∧ (∀ sp x, u.byteAt sp x = s.byteAt sp x) ∧
        u.outside = s.outside ++ [{ vd := vd, what := .aperture gpa a, miss := some (0, gpa / 2 ^ 21) }]) ∧
    (∀ vd gpa hpa keyid, s.outsideUp = true → (∀ x ∈ s.outside, s.holdsBack x vd (.aperture gpa a) = false) → 0 < len → gpa % 128 + len ≤ 128 → (s.vd vd).range gpa kind = .ok hpa keyid →
      (s.vd vd).dual? gpa = none →
      let p : Place := { space := .device, addr := hpa / 128 * 128, keyid := keyid, dual := none }
      let before := found .device hpa
      s.worldDenies vd p = false →
      (s.lineBlocked p = true → ∃ u : State, exec (.companionAccess (.aperture vd) gpa a) s = .next u ∧ SameBytes s u ∧
        u.outside = s.outside ++ [{ vd := vd, what := .aperture gpa a, miss := none }]) ∧
      (s.lineBlocked p = false → s.unhurt = true → s.wrongKey p = false → (s.region (regionOf p.addr)).state ≠ .retired → ((∃ d, a = .write d) ∨ s.readSyndrome p = none) →
        ∃ u : State, exec (.companionAccess (.aperture vd) gpa a) s = .next u ∧ u.hostReply = some before ∧
          ∀ x, u.byteAt .device x = if hpa ≤ x ∧ x < hpa + (out before).length then (out before).getD (x - hpa) 0#8 else s.byteAt .device x))) ∧
  (∀ (s s1 s2 s3 : State) (vd desc : Nat) (words : List Word) (d : QDesc), s.outsideUp = true → (∀ x ∈ s.outside, s.holdsBack x vd (.append desc words) = false) →
    s.desc vd desc = .ok d →
    s.linesFree vd [desc, d.slotAt d.widx] = true →
    (d.full = true → exec (.peerInboundAppend vd desc words) s = .next s) ∧
    (d.full = false → (∃ p, s.place vd (d.slotAt d.widx) .write = .ok p) →
    s.writeVa vd (desc + 12) (leBytes 4 ((d.widx + 1) % 2 ^ 32)) = .ok s1 → s1.writeVa vd (d.slotAt d.widx) (slotBytes words false) = .ok s2 →
    s2.writeVa vd (d.slotAt d.widx) ((slotBytes words true).take 1) = .ok s3 →
    ∃ u : State, exec (.peerInboundAppend vd desc words) s = .next u ∧ (∀ sp a, u.byteAt sp a = s3.byteAt sp a) ∧
      ∀ v, s3.vds[vd]? = some v → (u.vds[vd]?.map (·.moor)) = some (if v.moor = .moored ∨ v.moor = .mooring then .waking else v.moor))) ∧
  (∀ (s : State) (vd : Nat) (w : Word) (secure : Bool),
    (∀ r ∈ [HReg.prqw, .rpqr, .svspare, .svcnt, .itent 0, .itent 1, .pwrnow, .thrstat, .vdmstate], exec (.registerWrite r vd w secure) s = .next s) ∧
    (∀ n, exec (.registerWrite (.wlogdat n) vd w secure) s = .next s ∧ exec (.registerWrite (.diestat n) vd w secure) s = .next s) ∧
    (s.sv.busy = false → bitsOf w.toNat 4 20 = 0 → bitsOf w.toNat 28 3 = 0 → bitsOf w.toNat 0 4 = 0 ∨ 8 ≤ bitsOf w.toNat 0 4 →
      exec (.registerWrite .svcmd vd w secure) s = .next { s with sv := { s.sv with result := 1, busy := false } }) ∧
    (∀ k, exec (.registerWrite (.keydata k) vd w false) s = .next s ∧ exec (.registerWrite (.keyarg k) vd w false) s = .next s) ∧
    (400 ≤ w.toNat → w.toNat ≤ 3200 → exec (.registerWrite .pwrlim vd w secure) s = .next { s with trust := { s.trust with pwrlim := w.toNat } }) ∧
    (w.toNat < 400 ∨ 3200 < w.toNat → exec (.registerWrite .pwrlim vd w secure) s = .next s) ∧
    (∀ v, s.vds[vd]? = some v → (exec (.registerWrite .rpqw vd w secure) s = .next (s.setVd vd { v with rpqw := w })) ∧
      (bitsOf w.toNat 8 8 = 0 → exec (.registerWrite (.vdsched 0) vd w secure) s = .next (s.setVd vd { v with sched0 := w })) ∧
      (bitsOf w.toNat 16 16 ≠ 0 → bitsOf w.toNat 0 16 = 0 → exec (.registerWrite .vdrate vd w secure) s = .next (s.setVd vd v)) ∧
      (v.rtBusy = none → ∀ k, k < v.rtstage.length → exec (.registerWrite (.rtstage k) vd w secure) s = .next (s.setVd vd { v with rtstage := v.rtstage.set k w }))))

/-- The values that the Reset columns of the register tables give (R10) hold at power-on, for the registers named here (R383, R386, R387,
R409, R415, R417, R433), with nothing resident, no key held, no request in flight and every byte of device memory zero. -/
def Obligations.ResetValuesAreThoseOfTheSpec : Prop :=
  let s := State.reset
  s.groups = [] ∧ s.launches = [] ∧ s.reqs = [] ∧ s.trust.keys = [] ∧ (∀ a, s.byteAt .device a = 0#8) ∧
  (∀ c < 216, (s.cluster c).own = 0x80808080#32 ∧ (s.cluster c).spb = 0x0030C30C#32) ∧
  (∀ n < 64, (s.vd n).created = false ∧ (s.vd n).ranges = List.replicate 48 0#128 ∧ (s.vd n).pubs = List.replicate 8 0#128 ∧ (s.vd n).fsroot0 = 0#32 ∧ (s.vd n).fsroot1 = 0#32 ∧
    (s.vd n).pol = 4#32 ∧ (s.vd n).l2 = 0x1200#32 ∧ (s.vd n).rate = 0#32 ∧ (s.vd n).resetDone = true) ∧
  s.sv.thr0 = 0x01000008#32 ∧ s.sv.thr1 = 0x01181000#32 ∧ s.sv.thr2 = 1024#32 ∧ s.trust.pwrlim = 3200
end

