-- ==== Sys2Proof/Laws/Memory.lean ====
section
/-!
SUPPORT. Byte-addressed memory: what a read gives after each operation, and that every operation keeps the canonical form.
-/
namespace Sys2Proof.Machine

/-- Every listed address of a canonical memory's tail lies above its head. -/
theorem Memory.wf_cons {c : Host.Cell} {m : Memory} :
    Memory.wf (c :: m) = true ↔ c.2 ≠ 0#8 ∧ (∀ d ∈ m, c.1 < d.1) ∧ Memory.wf m = true := by
  induction m generalizing c with
  | nil => simp [Memory.wf]
  | cons d m ih =>
    rw [Memory.wf, Bool.and_eq_true, Bool.and_eq_true, ih, bne_iff_ne, decide_eq_true_eq]
    constructor
    · rintro ⟨⟨h0, h1⟩, h2, h3, h4⟩
      refine ⟨h0, ?_, h2, h3, h4⟩
      intro e he
      rcases List.mem_cons.1 he with rfl | he
      · exact h1
      · exact Nat.lt_trans h1 (h3 e he)
    · rintro ⟨h0, h1, h2, h3, h4⟩
      exact ⟨⟨h0, h1 d List.mem_cons_self⟩, h2, h3, h4⟩

/-- An address below every listed one reads 0. -/
theorem Memory.get_below {m : Memory} {a : Nat} (h : ∀ d ∈ m, a < d.1) : m.get a = 0#8 := by
  induction m with
  | nil => rfl
  | cons c m ih =>
    have hc := h c List.mem_cons_self
    simp only [Memory.get, if_neg (Nat.ne_of_lt hc)]
    exact ih fun d hd => h d (List.mem_cons_of_mem _ hd)

theorem Memory.mem_set {m : Memory} {a : Nat} {v : Byte} {d : Host.Cell} (h : d ∈ m.set a v) : d = (a, v) ∨ d ∈ m := by
  induction m with
  | nil => simp only [Memory.set] at h; split at h <;> simp_all
  | cons c m ih =>
    simp only [Memory.set] at h
    split at h
    · split at h
      · exact .inr h
      · rcases List.mem_cons.1 h with h | h
        · exact .inl h
        · exact .inr h
    · split at h
      · split at h
        · exact .inr (List.mem_cons_of_mem _ h)
        · rcases List.mem_cons.1 h with h | h
          · exact .inl h
          · exact .inr (List.mem_cons_of_mem _ h)
      · rcases List.mem_cons.1 h with h | h
        · exact .inr (h ▸ List.mem_cons_self)
        · exact (ih h).imp id (List.mem_cons_of_mem _)

/-- Storing a byte keeps the canonical form. -/
theorem Memory.wf_set {m : Memory} (a : Nat) (v : Byte) (h : m.wf = true) : (m.set a v).wf = true := by
  induction m with
  | nil => simp only [Memory.set]; split <;> simp_all [Memory.wf]
  | cons c m ih =>
    obtain ⟨h0, h1, h2⟩ := Memory.wf_cons.1 h
    simp only [Memory.set]
    split
    · rename_i hlt
      split
      · exact h
      · refine Memory.wf_cons.2 ⟨by simpa using ‹_›, ?_, h⟩
        intro d hd
        rcases List.mem_cons.1 hd with rfl | hd
        · exact hlt
        · exact Nat.lt_trans hlt (h1 d hd)
    · split
      · split
        · exact h2
        · rename_i _ heq _
          exact Memory.wf_cons.2 ⟨by simpa using ‹_›, fun d hd => heq ▸ h1 d hd, h2⟩
      · refine Memory.wf_cons.2 ⟨h0, ?_, ih h2⟩
        intro d hd
        rcases Memory.mem_set hd with rfl | hd
        · show c.1 < a
          omega
        · exact h1 d hd

/-- A read after a store of one byte. -/
theorem Memory.get_set {m : Memory} (a b : Nat) (v : Byte) (h : m.wf = true) :
    (m.set a v).get b = if b = a then v else m.get b := by
  induction m with
  | nil => simp only [Memory.set]; split <;> simp_all [Memory.get]
  | cons c m ih =>
    obtain ⟨-, h1, h2⟩ := Memory.wf_cons.1 h
    simp only [Memory.set]
    split
    · rename_i hlt
      have ha : Memory.get (c :: m) a = 0#8 := Memory.get_below fun d hd => by
        rcases List.mem_cons.1 hd with rfl | hd
        · exact hlt
        · exact Nat.lt_trans hlt (h1 d hd)
      split
      · split
        · simp_all
        · rfl
      · simp only [Memory.get]
    · split
      · rename_i _ heq
        have ha : Memory.get m a = 0#8 := Memory.get_below fun d hd => heq ▸ h1 d hd
        split
        · by_cases hb : b = a
          · simp_all
          · simp [Memory.get, hb, ← heq]
        · by_cases hb : b = a <;> simp [Memory.get, hb, ← heq]
      · rename_i _ hne
        by_cases hc : b = c.1
        · simp [Memory.get, hc, Ne.symm hne]
        · simp [Memory.get, hc, ih h2]

theorem Memory.wf_write {m : Memory} (a : Nat) (bs : List Byte) (h : m.wf = true) : (m.write a bs).wf = true := by
  induction bs generalizing m a with
  | nil => exact h
  | cons b bs ih => exact ih (a + 1) (Memory.wf_set a b h)

/-- A read after a store of bytes: the byte stored there, or what was there before. -/
theorem Memory.get_write {m : Memory} (a b : Nat) (bs : List Byte) (h : m.wf = true) :
    (m.write a bs).get b = if a ≤ b ∧ b < a + bs.length then bs.getD (b - a) 0#8 else m.get b := by
  induction bs generalizing m a with
  | nil => simp [Memory.write]
  | cons c bs ih =>
    rw [Memory.write, ih (a + 1) (Memory.wf_set a c h), Memory.get_set a b c h]
    by_cases hb : b = a
    · subst hb; simp
    · simp only [List.length_cons, if_neg hb]
      by_cases hi : a + 1 ≤ b ∧ b < a + 1 + bs.length
      · have : b - a = (b - (a + 1)) + 1 := by omega
        rw [if_pos hi, if_pos (by omega), this, List.getD_cons_succ]
      · rw [if_neg hi, if_neg (by omega)]

/-- Bytes outside those stored read as before. -/
theorem Memory.get_write_out {m : Memory} {a b : Nat} {bs : List Byte} (h : m.wf = true) (hb : b < a ∨ a + bs.length ≤ b) :
    (m.write a bs).get b = m.get b := by
  rw [Memory.get_write a b bs h, if_neg (by omega)]

theorem Memory.wf_filter {m : Memory} (p : Host.Cell → Bool) (h : m.wf = true) : Memory.wf (m.filter p) = true := by
  induction m with
  | nil => rfl
  | cons c m ih =>
    obtain ⟨h0, h1, h2⟩ := Memory.wf_cons.1 h
    rw [List.filter_cons]
    split
    · exact Memory.wf_cons.2 ⟨h0, fun d hd => h1 d (List.mem_filter.1 hd).1, ih h2⟩
    · exact ih h2

theorem Memory.wf_clear {m : Memory} (a n : Nat) (h : m.wf = true) : (m.clear a n).wf = true := Memory.wf_filter _ h

theorem Memory.get_filter {m : Memory} (p : Nat → Bool) (b : Nat) (h : m.wf = true) :
    Memory.get (m.filter fun c => p c.1) b = if p b then m.get b else 0#8 := by
  induction m with
  | nil => simp [Memory.get]
  | cons c m ih =>
    obtain ⟨-, h1, h2⟩ := Memory.wf_cons.1 h
    rw [List.filter_cons]
    by_cases hb : b = c.1
    · subst hb
      split
      · simp_all [Memory.get]
      · rw [ih h2]; simp_all
    · split <;> simp [Memory.get, hb, ih h2]

/-- A read after clearing [a, a + n). -/
theorem Memory.get_clear {m : Memory} (a n b : Nat) (h : m.wf = true) :
    (m.clear a n).get b = if a ≤ b ∧ b < a + n then 0#8 else m.get b := by
  have := Memory.get_filter (fun c => !(decide (a ≤ c) && decide (c < a + n))) b h
  rw [Memory.clear, this]
  by_cases hi : a ≤ b ∧ b < a + n
  · simp [hi]
  · rw [if_neg hi, if_pos]
    by_cases h1 : a ≤ b <;> simp_all

/-- Canonical memories that read alike are equal. -/
theorem Memory.ext_get {m n : Memory} (hm : m.wf = true) (hn : n.wf = true) (h : ∀ a, m.get a = n.get a) : m = n := by
  induction m generalizing n with
  | nil =>
    cases n with
    | nil => rfl
    | cons d n =>
      have := h d.1
      obtain ⟨h0, -, -⟩ := Memory.wf_cons.1 hn
      simp only [Memory.get, if_true] at this
      exact absurd this.symm h0
  | cons c m ih =>
    obtain ⟨c0, c1, c2⟩ := Memory.wf_cons.1 hm
    cases n with
    | nil => exact absurd (by simpa [Memory.get] using h c.1) c0
    | cons d n =>
      obtain ⟨d0, d1, d2⟩ := Memory.wf_cons.1 hn
      have hcd : c.1 = d.1 := by
        rcases Nat.lt_trichotomy c.1 d.1 with hl | he | hl
        · have hz : Memory.get (d :: n) c.1 = 0#8 := Memory.get_below fun e he => by
            rcases List.mem_cons.1 he with rfl | he
            · exact hl
            · exact Nat.lt_trans hl (d1 e he)
          have := h c.1
          rw [hz] at this
          exact absurd (by simpa [Memory.get] using this) c0
        · exact he
        · have hz : Memory.get (c :: m) d.1 = 0#8 := Memory.get_below fun e he => by
            rcases List.mem_cons.1 he with rfl | he
            · exact hl
            · exact Nat.lt_trans hl (c1 e he)
          have := h d.1
          rw [hz] at this
          exact absurd (by simpa [Memory.get] using this.symm) d0
      have hv : c.2 = d.2 := by simpa [Memory.get, hcd] using h c.1
      have hh : c = d := Prod.ext hcd hv
      subst hh
      refine congrArg (c :: ·) (ih c2 d2 fun a => ?_)
      by_cases ha : a = c.1
      · subst ha
        rw [Memory.get_below c1, Memory.get_below d1]
      · simpa [Memory.get, ha] using h a

end Sys2Proof.Machine
end

