-- ==== Sys2Proof/Laws/State.lean ====
section
/-!
SUPPORT. Each field of State after each update, so that no proof unfolds a record update.
-/
namespace Sys2Proof.Machine

/-! ### setGroup -/

@[simp] theorem State.setGroup_cur (s : State) (g : Group) : (s.setGroup g).cur = s.cur := rfl
@[simp] theorem State.setGroup_agenda (s : State) (g : Group) : (s.setGroup g).agenda = s.agenda := rfl
@[simp] theorem State.setGroup_oracle (s : State) (g : Group) : (s.setGroup g).oracle = s.oracle := rfl
@[simp] theorem State.setGroup_fresh (s : State) (g : Group) : (s.setGroup g).fresh = s.fresh := rfl
@[simp] theorem State.setGroup_turns (s : State) (g : Group) : (s.setGroup g).turns = s.turns := rfl
@[simp] theorem State.setGroup_clock (s : State) (g : Group) : (s.setGroup g).clock = s.clock := rfl
@[simp] theorem State.setGroup_epoch (s : State) (g : Group) : (s.setGroup g).epoch = s.epoch := rfl
@[simp] theorem State.setGroup_mem (s : State) (g : Group) : (s.setGroup g).mem = s.mem := rfl
@[simp] theorem State.setGroup_companion (s : State) (g : Group) : (s.setGroup g).companion = s.companion := rfl
@[simp] theorem State.setGroup_host (s : State) (g : Group) : (s.setGroup g).host = s.host := rfl
@[simp] theorem State.setGroup_dirty (s : State) (g : Group) : (s.setGroup g).dirty = s.dirty := rfl
@[simp] theorem State.setGroup_cached (s : State) (g : Group) : (s.setGroup g).cached = s.cached := rfl
@[simp] theorem State.setGroup_poisoned (s : State) (g : Group) : (s.setGroup g).poisoned = s.poisoned := rfl
@[simp] theorem State.setGroup_roc (s : State) (g : Group) : (s.setGroup g).roc = s.roc := rfl
@[simp] theorem State.setGroup_tlb (s : State) (g : Group) : (s.setGroup g).tlb = s.tlb := rfl
@[simp] theorem State.setGroup_walkCache (s : State) (g : Group) : (s.setGroup g).walkCache = s.walkCache := rfl
@[simp] theorem State.setGroup_reqs (s : State) (g : Group) : (s.setGroup g).reqs = s.reqs := rfl
@[simp] theorem State.setGroup_nextReq (s : State) (g : Group) : (s.setGroup g).nextReq = s.nextReq := rfl
@[simp] theorem State.setGroup_acks (s : State) (g : Group) : (s.setGroup g).acks = s.acks := rfl
@[simp] theorem State.setGroup_seqs (s : State) (g : Group) : (s.setGroup g).seqs = s.seqs := rfl
@[simp] theorem State.setGroup_launches (s : State) (g : Group) : (s.setGroup g).launches = s.launches := rfl
@[simp] theorem State.setGroup_groups (s : State) (g : Group) : (s.setGroup g).groups = s.groups.map fun h => if h.gid = g.gid then g else h := rfl
@[simp] theorem State.setGroup_queues (s : State) (g : Group) : (s.setGroup g).queues = s.queues := rfl
@[simp] theorem State.setGroup_side (s : State) (g : Group) : (s.setGroup g).side = s.side := rfl
@[simp] theorem State.setGroup_vds (s : State) (g : Group) : (s.setGroup g).vds = s.vds := rfl
@[simp] theorem State.setGroup_clusters (s : State) (g : Group) : (s.setGroup g).clusters = s.clusters := rfl
@[simp] theorem State.setGroup_nextLaunch (s : State) (g : Group) : (s.setGroup g).nextLaunch = s.nextLaunch := rfl
@[simp] theorem State.setGroup_nextGroup (s : State) (g : Group) : (s.setGroup g).nextGroup = s.nextGroup := rfl
@[simp] theorem State.setGroup_lastServed (s : State) (g : Group) : (s.setGroup g).lastServed = s.lastServed := rfl
@[simp] theorem State.setGroup_sv (s : State) (g : Group) : (s.setGroup g).sv = s.sv := rfl
@[simp] theorem State.setGroup_trust (s : State) (g : Group) : (s.setGroup g).trust = s.trust := rfl
@[simp] theorem State.setGroup_past (s : State) (g : Group) : (s.setGroup g).past = s.past := rfl
@[simp] theorem State.setGroup_readData (s : State) (g : Group) : (s.setGroup g).readData = s.readData := rfl
@[simp] theorem State.setGroup_outside (s : State) (g : Group) : (s.setGroup g).outside = s.outside := rfl
@[simp] theorem State.setGroup_hostReply (s : State) (g : Group) : (s.setGroup g).hostReply = s.hostReply := rfl

/-! ### setLaunch -/

@[simp] theorem State.setLaunch_cur (s : State) (l : Launch) : (s.setLaunch l).cur = s.cur := rfl
@[simp] theorem State.setLaunch_agenda (s : State) (l : Launch) : (s.setLaunch l).agenda = s.agenda := rfl
@[simp] theorem State.setLaunch_oracle (s : State) (l : Launch) : (s.setLaunch l).oracle = s.oracle := rfl
@[simp] theorem State.setLaunch_fresh (s : State) (l : Launch) : (s.setLaunch l).fresh = s.fresh := rfl
@[simp] theorem State.setLaunch_turns (s : State) (l : Launch) : (s.setLaunch l).turns = s.turns := rfl
@[simp] theorem State.setLaunch_clock (s : State) (l : Launch) : (s.setLaunch l).clock = s.clock := rfl
@[simp] theorem State.setLaunch_epoch (s : State) (l : Launch) : (s.setLaunch l).epoch = s.epoch := rfl
@[simp] theorem State.setLaunch_mem (s : State) (l : Launch) : (s.setLaunch l).mem = s.mem := rfl
@[simp] theorem State.setLaunch_companion (s : State) (l : Launch) : (s.setLaunch l).companion = s.companion := rfl
@[simp] theorem State.setLaunch_host (s : State) (l : Launch) : (s.setLaunch l).host = s.host := rfl
@[simp] theorem State.setLaunch_dirty (s : State) (l : Launch) : (s.setLaunch l).dirty = s.dirty := rfl
@[simp] theorem State.setLaunch_cached (s : State) (l : Launch) : (s.setLaunch l).cached = s.cached := rfl
@[simp] theorem State.setLaunch_poisoned (s : State) (l : Launch) : (s.setLaunch l).poisoned = s.poisoned := rfl
@[simp] theorem State.setLaunch_roc (s : State) (l : Launch) : (s.setLaunch l).roc = s.roc := rfl
@[simp] theorem State.setLaunch_tlb (s : State) (l : Launch) : (s.setLaunch l).tlb = s.tlb := rfl
@[simp] theorem State.setLaunch_walkCache (s : State) (l : Launch) : (s.setLaunch l).walkCache = s.walkCache := rfl
@[simp] theorem State.setLaunch_reqs (s : State) (l : Launch) : (s.setLaunch l).reqs = s.reqs := rfl
@[simp] theorem State.setLaunch_nextReq (s : State) (l : Launch) : (s.setLaunch l).nextReq = s.nextReq := rfl
@[simp] theorem State.setLaunch_acks (s : State) (l : Launch) : (s.setLaunch l).acks = s.acks := rfl
@[simp] theorem State.setLaunch_seqs (s : State) (l : Launch) : (s.setLaunch l).seqs = s.seqs := rfl
@[simp] theorem State.setLaunch_launches (s : State) (l : Launch) : (s.setLaunch l).launches = s.launches.map fun k => if k.id = l.id then l else k := rfl
@[simp] theorem State.setLaunch_groups (s : State) (l : Launch) : (s.setLaunch l).groups = s.groups := rfl
@[simp] theorem State.setLaunch_queues (s : State) (l : Launch) : (s.setLaunch l).queues = s.queues := rfl
@[simp] theorem State.setLaunch_side (s : State) (l : Launch) : (s.setLaunch l).side = s.side := rfl
@[simp] theorem State.setLaunch_vds (s : State) (l : Launch) : (s.setLaunch l).vds = s.vds := rfl
@[simp] theorem State.setLaunch_clusters (s : State) (l : Launch) : (s.setLaunch l).clusters = s.clusters := rfl
@[simp] theorem State.setLaunch_nextLaunch (s : State) (l : Launch) : (s.setLaunch l).nextLaunch = s.nextLaunch := rfl
@[simp] theorem State.setLaunch_nextGroup (s : State) (l : Launch) : (s.setLaunch l).nextGroup = s.nextGroup := rfl
@[simp] theorem State.setLaunch_lastServed (s : State) (l : Launch) : (s.setLaunch l).lastServed = s.lastServed := rfl
@[simp] theorem State.setLaunch_sv (s : State) (l : Launch) : (s.setLaunch l).sv = s.sv := rfl
@[simp] theorem State.setLaunch_trust (s : State) (l : Launch) : (s.setLaunch l).trust = s.trust := rfl
@[simp] theorem State.setLaunch_past (s : State) (l : Launch) : (s.setLaunch l).past = s.past := rfl
@[simp] theorem State.setLaunch_readData (s : State) (l : Launch) : (s.setLaunch l).readData = s.readData := rfl
@[simp] theorem State.setLaunch_outside (s : State) (l : Launch) : (s.setLaunch l).outside = s.outside := rfl
@[simp] theorem State.setLaunch_hostReply (s : State) (l : Launch) : (s.setLaunch l).hostReply = s.hostReply := rfl

/-! ### setVd -/

@[simp] theorem State.setVd_cur (s : State) (n : Nat) (v : VDev) : (s.setVd n v).cur = s.cur := rfl
@[simp] theorem State.setVd_agenda (s : State) (n : Nat) (v : VDev) : (s.setVd n v).agenda = s.agenda := rfl
@[simp] theorem State.setVd_oracle (s : State) (n : Nat) (v : VDev) : (s.setVd n v).oracle = s.oracle := rfl
@[simp] theorem State.setVd_fresh (s : State) (n : Nat) (v : VDev) : (s.setVd n v).fresh = s.fresh := rfl
@[simp] theorem State.setVd_turns (s : State) (n : Nat) (v : VDev) : (s.setVd n v).turns = s.turns := rfl
@[simp] theorem State.setVd_clock (s : State) (n : Nat) (v : VDev) : (s.setVd n v).clock = s.clock := rfl
@[simp] theorem State.setVd_epoch (s : State) (n : Nat) (v : VDev) : (s.setVd n v).epoch = s.epoch := rfl
@[simp] theorem State.setVd_mem (s : State) (n : Nat) (v : VDev) : (s.setVd n v).mem = s.mem := rfl
@[simp] theorem State.setVd_companion (s : State) (n : Nat) (v : VDev) : (s.setVd n v).companion = s.companion := rfl
@[simp] theorem State.setVd_host (s : State) (n : Nat) (v : VDev) : (s.setVd n v).host = s.host := rfl
@[simp] theorem State.setVd_dirty (s : State) (n : Nat) (v : VDev) : (s.setVd n v).dirty = s.dirty := rfl
@[simp] theorem State.setVd_cached (s : State) (n : Nat) (v : VDev) : (s.setVd n v).cached = s.cached := rfl
@[simp] theorem State.setVd_poisoned (s : State) (n : Nat) (v : VDev) : (s.setVd n v).poisoned = s.poisoned := rfl
@[simp] theorem State.setVd_roc (s : State) (n : Nat) (v : VDev) : (s.setVd n v).roc = s.roc := rfl
@[simp] theorem State.setVd_tlb (s : State) (n : Nat) (v : VDev) : (s.setVd n v).tlb = s.tlb := rfl
@[simp] theorem State.setVd_walkCache (s : State) (n : Nat) (v : VDev) : (s.setVd n v).walkCache = s.walkCache := rfl
@[simp] theorem State.setVd_reqs (s : State) (n : Nat) (v : VDev) : (s.setVd n v).reqs = s.reqs := rfl
@[simp] theorem State.setVd_nextReq (s : State) (n : Nat) (v : VDev) : (s.setVd n v).nextReq = s.nextReq := rfl
@[simp] theorem State.setVd_acks (s : State) (n : Nat) (v : VDev) : (s.setVd n v).acks = s.acks := rfl
@[simp] theorem State.setVd_seqs (s : State) (n : Nat) (v : VDev) : (s.setVd n v).seqs = s.seqs := rfl
@[simp] theorem State.setVd_launches (s : State) (n : Nat) (v : VDev) : (s.setVd n v).launches = s.launches := rfl
@[simp] theorem State.setVd_groups (s : State) (n : Nat) (v : VDev) : (s.setVd n v).groups = s.groups := rfl
@[simp] theorem State.setVd_queues (s : State) (n : Nat) (v : VDev) : (s.setVd n v).queues = s.queues := rfl
@[simp] theorem State.setVd_side (s : State) (n : Nat) (v : VDev) : (s.setVd n v).side = s.side := rfl
@[simp] theorem State.setVd_vds (s : State) (n : Nat) (v : VDev) : (s.setVd n v).vds = s.vds.set n v := rfl
@[simp] theorem State.setVd_clusters (s : State) (n : Nat) (v : VDev) : (s.setVd n v).clusters = s.clusters := rfl
@[simp] theorem State.setVd_nextLaunch (s : State) (n : Nat) (v : VDev) : (s.setVd n v).nextLaunch = s.nextLaunch := rfl
@[simp] theorem State.setVd_nextGroup (s : State) (n : Nat) (v : VDev) : (s.setVd n v).nextGroup = s.nextGroup := rfl
@[simp] theorem State.setVd_lastServed (s : State) (n : Nat) (v : VDev) : (s.setVd n v).lastServed = s.lastServed := rfl
@[simp] theorem State.setVd_sv (s : State) (n : Nat) (v : VDev) : (s.setVd n v).sv = s.sv := rfl
@[simp] theorem State.setVd_trust (s : State) (n : Nat) (v : VDev) : (s.setVd n v).trust = s.trust := rfl
@[simp] theorem State.setVd_past (s : State) (n : Nat) (v : VDev) : (s.setVd n v).past = s.past := rfl
@[simp] theorem State.setVd_readData (s : State) (n : Nat) (v : VDev) : (s.setVd n v).readData = s.readData := rfl
@[simp] theorem State.setVd_outside (s : State) (n : Nat) (v : VDev) : (s.setVd n v).outside = s.outside := rfl
@[simp] theorem State.setVd_hostReply (s : State) (n : Nat) (v : VDev) : (s.setVd n v).hostReply = s.hostReply := rfl

/-! ### setCluster -/

@[simp] theorem State.setCluster_cur (s : State) (n : Nat) (c : Cluster) : (s.setCluster n c).cur = s.cur := rfl
@[simp] theorem State.setCluster_agenda (s : State) (n : Nat) (c : Cluster) : (s.setCluster n c).agenda = s.agenda := rfl
@[simp] theorem State.setCluster_oracle (s : State) (n : Nat) (c : Cluster) : (s.setCluster n c).oracle = s.oracle := rfl
@[simp] theorem State.setCluster_fresh (s : State) (n : Nat) (c : Cluster) : (s.setCluster n c).fresh = s.fresh := rfl
@[simp] theorem State.setCluster_turns (s : State) (n : Nat) (c : Cluster) : (s.setCluster n c).turns = s.turns := rfl
@[simp] theorem State.setCluster_clock (s : State) (n : Nat) (c : Cluster) : (s.setCluster n c).clock = s.clock := rfl
@[simp] theorem State.setCluster_epoch (s : State) (n : Nat) (c : Cluster) : (s.setCluster n c).epoch = s.epoch := rfl
@[simp] theorem State.setCluster_mem (s : State) (n : Nat) (c : Cluster) : (s.setCluster n c).mem = s.mem := rfl
@[simp] theorem State.setCluster_companion (s : State) (n : Nat) (c : Cluster) : (s.setCluster n c).companion = s.companion := rfl
@[simp] theorem State.setCluster_host (s : State) (n : Nat) (c : Cluster) : (s.setCluster n c).host = s.host := rfl
@[simp] theorem State.setCluster_dirty (s : State) (n : Nat) (c : Cluster) : (s.setCluster n c).dirty = s.dirty := rfl
@[simp] theorem State.setCluster_cached (s : State) (n : Nat) (c : Cluster) : (s.setCluster n c).cached = s.cached := rfl
@[simp] theorem State.setCluster_poisoned (s : State) (n : Nat) (c : Cluster) : (s.setCluster n c).poisoned = s.poisoned := rfl
@[simp] theorem State.setCluster_roc (s : State) (n : Nat) (c : Cluster) : (s.setCluster n c).roc = s.roc := rfl
@[simp] theorem State.setCluster_tlb (s : State) (n : Nat) (c : Cluster) : (s.setCluster n c).tlb = s.tlb := rfl
@[simp] theorem State.setCluster_walkCache (s : State) (n : Nat) (c : Cluster) : (s.setCluster n c).walkCache = s.walkCache := rfl
@[simp] theorem State.setCluster_reqs (s : State) (n : Nat) (c : Cluster) : (s.setCluster n c).reqs = s.reqs := rfl
@[simp] theorem State.setCluster_nextReq (s : State) (n : Nat) (c : Cluster) : (s.setCluster n c).nextReq = s.nextReq := rfl
@[simp] theorem State.setCluster_acks (s : State) (n : Nat) (c : Cluster) : (s.setCluster n c).acks = s.acks := rfl
@[simp] theorem State.setCluster_seqs (s : State) (n : Nat) (c : Cluster) : (s.setCluster n c).seqs = s.seqs := rfl
@[simp] theorem State.setCluster_launches (s : State) (n : Nat) (c : Cluster) : (s.setCluster n c).launches = s.launches := rfl
@[simp] theorem State.setCluster_groups (s : State) (n : Nat) (c : Cluster) : (s.setCluster n c).groups = s.groups := rfl
@[simp] theorem State.setCluster_queues (s : State) (n : Nat) (c : Cluster) : (s.setCluster n c).queues = s.queues := rfl
@[simp] theorem State.setCluster_side (s : State) (n : Nat) (c : Cluster) : (s.setCluster n c).side = s.side := rfl
@[simp] theorem State.setCluster_vds (s : State) (n : Nat) (c : Cluster) : (s.setCluster n c).vds = s.vds := rfl
@[simp] theorem State.setCluster_clusters (s : State) (n : Nat) (c : Cluster) : (s.setCluster n c).clusters = s.clusters.set n c := rfl
@[simp] theorem State.setCluster_nextLaunch (s : State) (n : Nat) (c : Cluster) : (s.setCluster n c).nextLaunch = s.nextLaunch := rfl
@[simp] theorem State.setCluster_nextGroup (s : State) (n : Nat) (c : Cluster) : (s.setCluster n c).nextGroup = s.nextGroup := rfl
@[simp] theorem State.setCluster_lastServed (s : State) (n : Nat) (c : Cluster) : (s.setCluster n c).lastServed = s.lastServed := rfl
@[simp] theorem State.setCluster_sv (s : State) (n : Nat) (c : Cluster) : (s.setCluster n c).sv = s.sv := rfl
@[simp] theorem State.setCluster_trust (s : State) (n : Nat) (c : Cluster) : (s.setCluster n c).trust = s.trust := rfl
@[simp] theorem State.setCluster_past (s : State) (n : Nat) (c : Cluster) : (s.setCluster n c).past = s.past := rfl
@[simp] theorem State.setCluster_readData (s : State) (n : Nat) (c : Cluster) : (s.setCluster n c).readData = s.readData := rfl
@[simp] theorem State.setCluster_outside (s : State) (n : Nat) (c : Cluster) : (s.setCluster n c).outside = s.outside := rfl
@[simp] theorem State.setCluster_hostReply (s : State) (n : Nat) (c : Cluster) : (s.setCluster n c).hostReply = s.hostReply := rfl

/-! ### setQueue -/

@[simp] theorem State.setQueue_cur (s : State) (q : Queue) : (s.setQueue q).cur = s.cur := rfl
@[simp] theorem State.setQueue_agenda (s : State) (q : Queue) : (s.setQueue q).agenda = s.agenda := rfl
@[simp] theorem State.setQueue_oracle (s : State) (q : Queue) : (s.setQueue q).oracle = s.oracle := rfl
@[simp] theorem State.setQueue_fresh (s : State) (q : Queue) : (s.setQueue q).fresh = s.fresh := rfl
@[simp] theorem State.setQueue_turns (s : State) (q : Queue) : (s.setQueue q).turns = s.turns := rfl
@[simp] theorem State.setQueue_clock (s : State) (q : Queue) : (s.setQueue q).clock = s.clock := rfl
@[simp] theorem State.setQueue_epoch (s : State) (q : Queue) : (s.setQueue q).epoch = s.epoch := rfl
@[simp] theorem State.setQueue_mem (s : State) (q : Queue) : (s.setQueue q).mem = s.mem := rfl
@[simp] theorem State.setQueue_companion (s : State) (q : Queue) : (s.setQueue q).companion = s.companion := rfl
@[simp] theorem State.setQueue_host (s : State) (q : Queue) : (s.setQueue q).host = s.host := rfl
@[simp] theorem State.setQueue_dirty (s : State) (q : Queue) : (s.setQueue q).dirty = s.dirty := rfl
@[simp] theorem State.setQueue_cached (s : State) (q : Queue) : (s.setQueue q).cached = s.cached := rfl
@[simp] theorem State.setQueue_poisoned (s : State) (q : Queue) : (s.setQueue q).poisoned = s.poisoned := rfl
@[simp] theorem State.setQueue_roc (s : State) (q : Queue) : (s.setQueue q).roc = s.roc := rfl
@[simp] theorem State.setQueue_tlb (s : State) (q : Queue) : (s.setQueue q).tlb = s.tlb := rfl
@[simp] theorem State.setQueue_walkCache (s : State) (q : Queue) : (s.setQueue q).walkCache = s.walkCache := rfl
@[simp] theorem State.setQueue_reqs (s : State) (q : Queue) : (s.setQueue q).reqs = s.reqs := rfl
@[simp] theorem State.setQueue_nextReq (s : State) (q : Queue) : (s.setQueue q).nextReq = s.nextReq := rfl
@[simp] theorem State.setQueue_acks (s : State) (q : Queue) : (s.setQueue q).acks = s.acks := rfl
@[simp] theorem State.setQueue_seqs (s : State) (q : Queue) : (s.setQueue q).seqs = s.seqs := rfl
@[simp] theorem State.setQueue_launches (s : State) (q : Queue) : (s.setQueue q).launches = s.launches := rfl
@[simp] theorem State.setQueue_groups (s : State) (q : Queue) : (s.setQueue q).groups = s.groups := rfl
@[simp] theorem State.setQueue_queues (s : State) (q : Queue) : (s.setQueue q).queues = s.queues.map fun x => if x.id = q.id then q else x := rfl
@[simp] theorem State.setQueue_side (s : State) (q : Queue) : (s.setQueue q).side = s.side := rfl
@[simp] theorem State.setQueue_vds (s : State) (q : Queue) : (s.setQueue q).vds = s.vds := rfl
@[simp] theorem State.setQueue_clusters (s : State) (q : Queue) : (s.setQueue q).clusters = s.clusters := rfl
@[simp] theorem State.setQueue_nextLaunch (s : State) (q : Queue) : (s.setQueue q).nextLaunch = s.nextLaunch := rfl
@[simp] theorem State.setQueue_nextGroup (s : State) (q : Queue) : (s.setQueue q).nextGroup = s.nextGroup := rfl
@[simp] theorem State.setQueue_lastServed (s : State) (q : Queue) : (s.setQueue q).lastServed = s.lastServed := rfl
@[simp] theorem State.setQueue_sv (s : State) (q : Queue) : (s.setQueue q).sv = s.sv := rfl
@[simp] theorem State.setQueue_trust (s : State) (q : Queue) : (s.setQueue q).trust = s.trust := rfl
@[simp] theorem State.setQueue_past (s : State) (q : Queue) : (s.setQueue q).past = s.past := rfl
@[simp] theorem State.setQueue_readData (s : State) (q : Queue) : (s.setQueue q).readData = s.readData := rfl
@[simp] theorem State.setQueue_outside (s : State) (q : Queue) : (s.setQueue q).outside = s.outside := rfl
@[simp] theorem State.setQueue_hostReply (s : State) (q : Queue) : (s.setQueue q).hostReply = s.hostReply := rfl

/-! ### setDie -/

@[simp] theorem State.setDie_cur (s : State) (n : Nat) (d : Die) : (s.setDie n d).cur = s.cur := rfl
@[simp] theorem State.setDie_agenda (s : State) (n : Nat) (d : Die) : (s.setDie n d).agenda = s.agenda := rfl
@[simp] theorem State.setDie_oracle (s : State) (n : Nat) (d : Die) : (s.setDie n d).oracle = s.oracle := rfl
@[simp] theorem State.setDie_fresh (s : State) (n : Nat) (d : Die) : (s.setDie n d).fresh = s.fresh := rfl
@[simp] theorem State.setDie_turns (s : State) (n : Nat) (d : Die) : (s.setDie n d).turns = s.turns := rfl
@[simp] theorem State.setDie_clock (s : State) (n : Nat) (d : Die) : (s.setDie n d).clock = s.clock := rfl
@[simp] theorem State.setDie_epoch (s : State) (n : Nat) (d : Die) : (s.setDie n d).epoch = s.epoch := rfl
@[simp] theorem State.setDie_mem (s : State) (n : Nat) (d : Die) : (s.setDie n d).mem = s.mem := rfl
@[simp] theorem State.setDie_companion (s : State) (n : Nat) (d : Die) : (s.setDie n d).companion = s.companion := rfl
@[simp] theorem State.setDie_host (s : State) (n : Nat) (d : Die) : (s.setDie n d).host = s.host := rfl
@[simp] theorem State.setDie_dirty (s : State) (n : Nat) (d : Die) : (s.setDie n d).dirty = s.dirty := rfl
@[simp] theorem State.setDie_cached (s : State) (n : Nat) (d : Die) : (s.setDie n d).cached = s.cached := rfl
@[simp] theorem State.setDie_poisoned (s : State) (n : Nat) (d : Die) : (s.setDie n d).poisoned = s.poisoned := rfl
@[simp] theorem State.setDie_roc (s : State) (n : Nat) (d : Die) : (s.setDie n d).roc = s.roc := rfl
@[simp] theorem State.setDie_tlb (s : State) (n : Nat) (d : Die) : (s.setDie n d).tlb = s.tlb := rfl
@[simp] theorem State.setDie_walkCache (s : State) (n : Nat) (d : Die) : (s.setDie n d).walkCache = s.walkCache := rfl
@[simp] theorem State.setDie_reqs (s : State) (n : Nat) (d : Die) : (s.setDie n d).reqs = s.reqs := rfl
@[simp] theorem State.setDie_nextReq (s : State) (n : Nat) (d : Die) : (s.setDie n d).nextReq = s.nextReq := rfl
@[simp] theorem State.setDie_acks (s : State) (n : Nat) (d : Die) : (s.setDie n d).acks = s.acks := rfl
@[simp] theorem State.setDie_seqs (s : State) (n : Nat) (d : Die) : (s.setDie n d).seqs = s.seqs := rfl
@[simp] theorem State.setDie_launches (s : State) (n : Nat) (d : Die) : (s.setDie n d).launches = s.launches := rfl
@[simp] theorem State.setDie_groups (s : State) (n : Nat) (d : Die) : (s.setDie n d).groups = s.groups := rfl
@[simp] theorem State.setDie_queues (s : State) (n : Nat) (d : Die) : (s.setDie n d).queues = s.queues := rfl
@[simp] theorem State.setDie_side (s : State) (n : Nat) (d : Die) : (s.setDie n d).side = s.side := rfl
@[simp] theorem State.setDie_vds (s : State) (n : Nat) (d : Die) : (s.setDie n d).vds = s.vds := rfl
@[simp] theorem State.setDie_clusters (s : State) (n : Nat) (d : Die) : (s.setDie n d).clusters = s.clusters := rfl
@[simp] theorem State.setDie_nextLaunch (s : State) (n : Nat) (d : Die) : (s.setDie n d).nextLaunch = s.nextLaunch := rfl
@[simp] theorem State.setDie_nextGroup (s : State) (n : Nat) (d : Die) : (s.setDie n d).nextGroup = s.nextGroup := rfl
@[simp] theorem State.setDie_lastServed (s : State) (n : Nat) (d : Die) : (s.setDie n d).lastServed = s.lastServed := rfl
@[simp] theorem State.setDie_sv (s : State) (n : Nat) (d : Die) : (s.setDie n d).sv = s.sv := rfl
@[simp] theorem State.setDie_trust (s : State) (n : Nat) (d : Die) : (s.setDie n d).trust = { s.trust with dies := s.trust.dies.set n d } := rfl
@[simp] theorem State.setDie_past (s : State) (n : Nat) (d : Die) : (s.setDie n d).past = s.past := rfl
@[simp] theorem State.setDie_readData (s : State) (n : Nat) (d : Die) : (s.setDie n d).readData = s.readData := rfl
@[simp] theorem State.setDie_outside (s : State) (n : Nat) (d : Die) : (s.setDie n d).outside = s.outside := rfl
@[simp] theorem State.setDie_hostReply (s : State) (n : Nat) (d : Die) : (s.setDie n d).hostReply = s.hostReply := rfl

/-! ### put -/

@[simp] theorem State.put_cur (s : State) (h : Here) : (s.put h).cur = s.cur := rfl
@[simp] theorem State.put_agenda (s : State) (h : Here) : (s.put h).agenda = s.agenda := rfl
@[simp] theorem State.put_oracle (s : State) (h : Here) : (s.put h).oracle = s.oracle := rfl
@[simp] theorem State.put_fresh (s : State) (h : Here) : (s.put h).fresh = h.fresh := rfl
@[simp] theorem State.put_turns (s : State) (h : Here) : (s.put h).turns = s.turns := rfl
@[simp] theorem State.put_clock (s : State) (h : Here) : (s.put h).clock = s.clock := rfl
@[simp] theorem State.put_epoch (s : State) (h : Here) : (s.put h).epoch = s.epoch := rfl
@[simp] theorem State.put_mem (s : State) (h : Here) : (s.put h).mem = s.mem := rfl
@[simp] theorem State.put_companion (s : State) (h : Here) : (s.put h).companion = s.companion := rfl
@[simp] theorem State.put_host (s : State) (h : Here) : (s.put h).host = s.host := rfl
@[simp] theorem State.put_dirty (s : State) (h : Here) : (s.put h).dirty = s.dirty := rfl
@[simp] theorem State.put_cached (s : State) (h : Here) : (s.put h).cached = s.cached := rfl
@[simp] theorem State.put_poisoned (s : State) (h : Here) : (s.put h).poisoned = s.poisoned := rfl
@[simp] theorem State.put_roc (s : State) (h : Here) : (s.put h).roc = s.roc := rfl
@[simp] theorem State.put_tlb (s : State) (h : Here) : (s.put h).tlb = s.tlb := rfl
@[simp] theorem State.put_walkCache (s : State) (h : Here) : (s.put h).walkCache = s.walkCache := rfl
@[simp] theorem State.put_reqs (s : State) (h : Here) : (s.put h).reqs = s.reqs := rfl
@[simp] theorem State.put_nextReq (s : State) (h : Here) : (s.put h).nextReq = s.nextReq := rfl
@[simp] theorem State.put_acks (s : State) (h : Here) : (s.put h).acks = s.acks := rfl
@[simp] theorem State.put_seqs (s : State) (h : Here) : (s.put h).seqs = s.seqs := rfl
@[simp] theorem State.put_launches (s : State) (h : Here) : (s.put h).launches = s.launches := rfl
@[simp] theorem State.put_groups (s : State) (h : Here) : (s.put h).groups = s.groups.map fun k => if k.gid = (h.group.setTeam (h.team.setFrag h.frag)).gid then h.group.setTeam (h.team.setFrag h.frag) else k := rfl
@[simp] theorem State.put_queues (s : State) (h : Here) : (s.put h).queues = s.queues := rfl
@[simp] theorem State.put_side (s : State) (h : Here) : (s.put h).side = s.side := rfl
@[simp] theorem State.put_vds (s : State) (h : Here) : (s.put h).vds = s.vds := rfl
@[simp] theorem State.put_clusters (s : State) (h : Here) : (s.put h).clusters = s.clusters := rfl
@[simp] theorem State.put_nextLaunch (s : State) (h : Here) : (s.put h).nextLaunch = s.nextLaunch := rfl
@[simp] theorem State.put_nextGroup (s : State) (h : Here) : (s.put h).nextGroup = s.nextGroup := rfl
@[simp] theorem State.put_lastServed (s : State) (h : Here) : (s.put h).lastServed = s.lastServed := rfl
@[simp] theorem State.put_sv (s : State) (h : Here) : (s.put h).sv = s.sv := rfl
@[simp] theorem State.put_trust (s : State) (h : Here) : (s.put h).trust = s.trust := rfl
@[simp] theorem State.put_past (s : State) (h : Here) : (s.put h).past = s.past := rfl
@[simp] theorem State.put_readData (s : State) (h : Here) : (s.put h).readData = s.readData := rfl
@[simp] theorem State.put_outside (s : State) (h : Here) : (s.put h).outside = s.outside := rfl
@[simp] theorem State.put_hostReply (s : State) (h : Here) : (s.put h).hostReply = s.hostReply := rfl

/-! ### setFrag, setFrame, setReg, writeCc, raiseFp -/

@[simp] theorem Team.setFrag_tid (t : Team) (f : Frag) : (t.setFrag f).tid = t.tid := rfl
@[simp] theorem Team.setFrag_isCore (t : Team) (f : Frag) : (t.setFrag f).isCore = t.isCore := rfl
@[simp] theorem Team.setFrag_quadrant (t : Team) (f : Frag) : (t.setFrag f).quadrant = t.quadrant := rfl
@[simp] theorem Team.setFrag_slot (t : Team) (f : Frag) : (t.setFrag f).slot = t.slot := rfl
@[simp] theorem Team.setFrag_f1 (t : Team) (f : Frag) : (t.setFrag f).f1 = t.f1 := rfl
@[simp] theorem Team.setFrag_e0 (t : Team) (f : Frag) : (t.setFrag f).e0 = t.e0 := rfl
@[simp] theorem Team.setFrag_live (t : Team) (f : Frag) : (t.setFrag f).live = t.live := rfl
@[simp] theorem Team.setFrag_v (t : Team) (f : Frag) : (t.setFrag f).v = t.v := rfl
@[simp] theorem Team.setFrag_o (t : Team) (f : Frag) : (t.setFrag f).o = t.o := rfl
@[simp] theorem Team.setFrag_cc (t : Team) (f : Frag) : (t.setFrag f).cc = t.cc := rfl
@[simp] theorem Team.setFrag_b (t : Team) (f : Frag) : (t.setFrag f).b = t.b := rfl
@[simp] theorem Team.setFrag_fpctl (t : Team) (f : Frag) : (t.setFrag f).fpctl = t.fpctl := rfl
@[simp] theorem Team.setFrag_pwcnt (t : Team) (f : Frag) : (t.setFrag f).pwcnt = t.pwcnt := rfl
@[simp] theorem Team.setFrag_vCount (t : Team) (f : Frag) : (t.setFrag f).vCount = t.vCount := rfl
@[simp] theorem Team.setFrag_gMax (t : Team) (f : Frag) : (t.setFrag f).gMax = t.gMax := rfl
@[simp] theorem Team.setFrag_oCount (t : Team) (f : Frag) : (t.setFrag f).oCount = t.oCount := rfl
@[simp] theorem Team.setFrag_acquired (t : Team) (f : Frag) : (t.setFrag f).acquired = t.acquired := rfl
@[simp] theorem Team.setFrag_joinCtr (t : Team) (f : Frag) : (t.setFrag f).joinCtr = t.joinCtr := rfl
@[simp] theorem Team.setFrag_seqCtr (t : Team) (f : Frag) : (t.setFrag f).seqCtr = t.seqCtr := rfl
@[simp] theorem Team.setFrag_nextOp (t : Team) (f : Frag) : (t.setFrag f).nextOp = t.nextOp := rfl
@[simp] theorem Team.setFrag_nextFrame (t : Team) (f : Frag) : (t.setFrag f).nextFrame = t.nextFrame := rfl
@[simp] theorem Team.setFrag_frames (t : Team) (f : Frag) : (t.setFrag f).frames = t.frames := rfl
@[simp] theorem Team.setFrag_outs (t : Team) (f : Frag) : (t.setFrag f).outs = t.outs := rfl
@[simp] theorem Team.setFrag_faults (t : Team) (f : Frag) : (t.setFrag f).faults = t.faults := rfl

@[simp] theorem Team.setFrame_tid (t : Team) (r : Frame) : (t.setFrame r).tid = t.tid := rfl
@[simp] theorem Team.setFrame_isCore (t : Team) (r : Frame) : (t.setFrame r).isCore = t.isCore := rfl
@[simp] theorem Team.setFrame_quadrant (t : Team) (r : Frame) : (t.setFrame r).quadrant = t.quadrant := rfl
@[simp] theorem Team.setFrame_slot (t : Team) (r : Frame) : (t.setFrame r).slot = t.slot := rfl
@[simp] theorem Team.setFrame_f1 (t : Team) (r : Frame) : (t.setFrame r).f1 = t.f1 := rfl
@[simp] theorem Team.setFrame_e0 (t : Team) (r : Frame) : (t.setFrame r).e0 = t.e0 := rfl
@[simp] theorem Team.setFrame_live (t : Team) (r : Frame) : (t.setFrame r).live = t.live := rfl
@[simp] theorem Team.setFrame_v (t : Team) (r : Frame) : (t.setFrame r).v = t.v := rfl
@[simp] theorem Team.setFrame_o (t : Team) (r : Frame) : (t.setFrame r).o = t.o := rfl
@[simp] theorem Team.setFrame_cc (t : Team) (r : Frame) : (t.setFrame r).cc = t.cc := rfl
@[simp] theorem Team.setFrame_b (t : Team) (r : Frame) : (t.setFrame r).b = t.b := rfl
@[simp] theorem Team.setFrame_fpctl (t : Team) (r : Frame) : (t.setFrame r).fpctl = t.fpctl := rfl
@[simp] theorem Team.setFrame_pwcnt (t : Team) (r : Frame) : (t.setFrame r).pwcnt = t.pwcnt := rfl
@[simp] theorem Team.setFrame_vCount (t : Team) (r : Frame) : (t.setFrame r).vCount = t.vCount := rfl
@[simp] theorem Team.setFrame_gMax (t : Team) (r : Frame) : (t.setFrame r).gMax = t.gMax := rfl
@[simp] theorem Team.setFrame_oCount (t : Team) (r : Frame) : (t.setFrame r).oCount = t.oCount := rfl
@[simp] theorem Team.setFrame_acquired (t : Team) (r : Frame) : (t.setFrame r).acquired = t.acquired := rfl
@[simp] theorem Team.setFrame_joinCtr (t : Team) (r : Frame) : (t.setFrame r).joinCtr = t.joinCtr := rfl
@[simp] theorem Team.setFrame_seqCtr (t : Team) (r : Frame) : (t.setFrame r).seqCtr = t.seqCtr := rfl
@[simp] theorem Team.setFrame_nextOp (t : Team) (r : Frame) : (t.setFrame r).nextOp = t.nextOp := rfl
@[simp] theorem Team.setFrame_nextFrame (t : Team) (r : Frame) : (t.setFrame r).nextFrame = t.nextFrame := rfl
@[simp] theorem Team.setFrame_frags (t : Team) (r : Frame) : (t.setFrame r).frags = t.frags := rfl
@[simp] theorem Team.setFrame_outs (t : Team) (r : Frame) : (t.setFrame r).outs = t.outs := rfl
@[simp] theorem Team.setFrame_faults (t : Team) (r : Frame) : (t.setFrame r).faults = t.faults := rfl

@[simp] theorem Team.writeCc_tid (t : Team) (k : Nat) (m : Mask) (f : Nat → Flags) : (t.writeCc k m f).tid = t.tid := rfl
@[simp] theorem Team.writeCc_isCore (t : Team) (k : Nat) (m : Mask) (f : Nat → Flags) : (t.writeCc k m f).isCore = t.isCore := rfl
@[simp] theorem Team.writeCc_quadrant (t : Team) (k : Nat) (m : Mask) (f : Nat → Flags) : (t.writeCc k m f).quadrant = t.quadrant := rfl
@[simp] theorem Team.writeCc_slot (t : Team) (k : Nat) (m : Mask) (f : Nat → Flags) : (t.writeCc k m f).slot = t.slot := rfl
@[simp] theorem Team.writeCc_f1 (t : Team) (k : Nat) (m : Mask) (f : Nat → Flags) : (t.writeCc k m f).f1 = t.f1 := rfl
@[simp] theorem Team.writeCc_e0 (t : Team) (k : Nat) (m : Mask) (f : Nat → Flags) : (t.writeCc k m f).e0 = t.e0 := rfl
@[simp] theorem Team.writeCc_live (t : Team) (k : Nat) (m : Mask) (f : Nat → Flags) : (t.writeCc k m f).live = t.live := rfl
@[simp] theorem Team.writeCc_v (t : Team) (k : Nat) (m : Mask) (f : Nat → Flags) : (t.writeCc k m f).v = t.v := rfl
@[simp] theorem Team.writeCc_o (t : Team) (k : Nat) (m : Mask) (f : Nat → Flags) : (t.writeCc k m f).o = t.o := rfl
@[simp] theorem Team.writeCc_b (t : Team) (k : Nat) (m : Mask) (f : Nat → Flags) : (t.writeCc k m f).b = t.b := rfl
@[simp] theorem Team.writeCc_fpctl (t : Team) (k : Nat) (m : Mask) (f : Nat → Flags) : (t.writeCc k m f).fpctl = t.fpctl := rfl
@[simp] theorem Team.writeCc_pwcnt (t : Team) (k : Nat) (m : Mask) (f : Nat → Flags) : (t.writeCc k m f).pwcnt = t.pwcnt := rfl
@[simp] theorem Team.writeCc_vCount (t : Team) (k : Nat) (m : Mask) (f : Nat → Flags) : (t.writeCc k m f).vCount = t.vCount := rfl
@[simp] theorem Team.writeCc_gMax (t : Team) (k : Nat) (m : Mask) (f : Nat → Flags) : (t.writeCc k m f).gMax = t.gMax := rfl
@[simp] theorem Team.writeCc_oCount (t : Team) (k : Nat) (m : Mask) (f : Nat → Flags) : (t.writeCc k m f).oCount = t.oCount := rfl
@[simp] theorem Team.writeCc_acquired (t : Team) (k : Nat) (m : Mask) (f : Nat → Flags) : (t.writeCc k m f).acquired = t.acquired := rfl
@[simp] theorem Team.writeCc_joinCtr (t : Team) (k : Nat) (m : Mask) (f : Nat → Flags) : (t.writeCc k m f).joinCtr = t.joinCtr := rfl
@[simp] theorem Team.writeCc_seqCtr (t : Team) (k : Nat) (m : Mask) (f : Nat → Flags) : (t.writeCc k m f).seqCtr = t.seqCtr := rfl
@[simp] theorem Team.writeCc_nextOp (t : Team) (k : Nat) (m : Mask) (f : Nat → Flags) : (t.writeCc k m f).nextOp = t.nextOp := rfl
@[simp] theorem Team.writeCc_nextFrame (t : Team) (k : Nat) (m : Mask) (f : Nat → Flags) : (t.writeCc k m f).nextFrame = t.nextFrame := rfl
@[simp] theorem Team.writeCc_frames (t : Team) (k : Nat) (m : Mask) (f : Nat → Flags) : (t.writeCc k m f).frames = t.frames := rfl
@[simp] theorem Team.writeCc_frags (t : Team) (k : Nat) (m : Mask) (f : Nat → Flags) : (t.writeCc k m f).frags = t.frags := rfl
@[simp] theorem Team.writeCc_outs (t : Team) (k : Nat) (m : Mask) (f : Nat → Flags) : (t.writeCc k m f).outs = t.outs := rfl
@[simp] theorem Team.writeCc_faults (t : Team) (k : Nat) (m : Mask) (f : Nat → Flags) : (t.writeCc k m f).faults = t.faults := rfl

@[simp] theorem Team.raiseFp_tid (t : Team) (fl : FFlags) : (t.raiseFp fl).tid = t.tid := rfl
@[simp] theorem Team.raiseFp_isCore (t : Team) (fl : FFlags) : (t.raiseFp fl).isCore = t.isCore := rfl
@[simp] theorem Team.raiseFp_quadrant (t : Team) (fl : FFlags) : (t.raiseFp fl).quadrant = t.quadrant := rfl
@[simp] theorem Team.raiseFp_slot (t : Team) (fl : FFlags) : (t.raiseFp fl).slot = t.slot := rfl
@[simp] theorem Team.raiseFp_f1 (t : Team) (fl : FFlags) : (t.raiseFp fl).f1 = t.f1 := rfl
@[simp] theorem Team.raiseFp_e0 (t : Team) (fl : FFlags) : (t.raiseFp fl).e0 = t.e0 := rfl
@[simp] theorem Team.raiseFp_live (t : Team) (fl : FFlags) : (t.raiseFp fl).live = t.live := rfl
@[simp] theorem Team.raiseFp_v (t : Team) (fl : FFlags) : (t.raiseFp fl).v = t.v := rfl
@[simp] theorem Team.raiseFp_o (t : Team) (fl : FFlags) : (t.raiseFp fl).o = t.o := rfl
@[simp] theorem Team.raiseFp_cc (t : Team) (fl : FFlags) : (t.raiseFp fl).cc = t.cc := rfl
@[simp] theorem Team.raiseFp_b (t : Team) (fl : FFlags) : (t.raiseFp fl).b = t.b := rfl
@[simp] theorem Team.raiseFp_pwcnt (t : Team) (fl : FFlags) : (t.raiseFp fl).pwcnt = t.pwcnt := rfl
@[simp] theorem Team.raiseFp_vCount (t : Team) (fl : FFlags) : (t.raiseFp fl).vCount = t.vCount := rfl
@[simp] theorem Team.raiseFp_gMax (t : Team) (fl : FFlags) : (t.raiseFp fl).gMax = t.gMax := rfl
@[simp] theorem Team.raiseFp_oCount (t : Team) (fl : FFlags) : (t.raiseFp fl).oCount = t.oCount := rfl
@[simp] theorem Team.raiseFp_acquired (t : Team) (fl : FFlags) : (t.raiseFp fl).acquired = t.acquired := rfl
@[simp] theorem Team.raiseFp_joinCtr (t : Team) (fl : FFlags) : (t.raiseFp fl).joinCtr = t.joinCtr := rfl
@[simp] theorem Team.raiseFp_seqCtr (t : Team) (fl : FFlags) : (t.raiseFp fl).seqCtr = t.seqCtr := rfl
@[simp] theorem Team.raiseFp_nextOp (t : Team) (fl : FFlags) : (t.raiseFp fl).nextOp = t.nextOp := rfl
@[simp] theorem Team.raiseFp_nextFrame (t : Team) (fl : FFlags) : (t.raiseFp fl).nextFrame = t.nextFrame := rfl
@[simp] theorem Team.raiseFp_frames (t : Team) (fl : FFlags) : (t.raiseFp fl).frames = t.frames := rfl
@[simp] theorem Team.raiseFp_frags (t : Team) (fl : FFlags) : (t.raiseFp fl).frags = t.frags := rfl
@[simp] theorem Team.raiseFp_outs (t : Team) (fl : FFlags) : (t.raiseFp fl).outs = t.outs := rfl
@[simp] theorem Team.raiseFp_faults (t : Team) (fl : FFlags) : (t.raiseFp fl).faults = t.faults := rfl

@[simp] theorem Team.setReg_tid (t : Team) (r : Nat) (y : VReg) : (t.setReg r y).tid = t.tid := by
  unfold Team.setReg; split <;> rfl
@[simp] theorem Team.setReg_isCore (t : Team) (r : Nat) (y : VReg) : (t.setReg r y).isCore = t.isCore := by
  unfold Team.setReg; split <;> rfl
@[simp] theorem Team.setReg_quadrant (t : Team) (r : Nat) (y : VReg) : (t.setReg r y).quadrant = t.quadrant := by
  unfold Team.setReg; split <;> rfl
@[simp] theorem Team.setReg_slot (t : Team) (r : Nat) (y : VReg) : (t.setReg r y).slot = t.slot := by
  unfold Team.setReg; split <;> rfl
@[simp] theorem Team.setReg_f1 (t : Team) (r : Nat) (y : VReg) : (t.setReg r y).f1 = t.f1 := by
  unfold Team.setReg; split <;> rfl
@[simp] theorem Team.setReg_e0 (t : Team) (r : Nat) (y : VReg) : (t.setReg r y).e0 = t.e0 := by
  unfold Team.setReg; split <;> rfl
@[simp] theorem Team.setReg_live (t : Team) (r : Nat) (y : VReg) : (t.setReg r y).live = t.live := by
  unfold Team.setReg; split <;> rfl
@[simp] theorem Team.setReg_cc (t : Team) (r : Nat) (y : VReg) : (t.setReg r y).cc = t.cc := by
  unfold Team.setReg; split <;> rfl
@[simp] theorem Team.setReg_b (t : Team) (r : Nat) (y : VReg) : (t.setReg r y).b = t.b := by
  unfold Team.setReg; split <;> rfl
@[simp] theorem Team.setReg_fpctl (t : Team) (r : Nat) (y : VReg) : (t.setReg r y).fpctl = t.fpctl := by
  unfold Team.setReg; split <;> rfl
@[simp] theorem Team.setReg_pwcnt (t : Team) (r : Nat) (y : VReg) : (t.setReg r y).pwcnt = t.pwcnt := by
  unfold Team.setReg; split <;> rfl
@[simp] theorem Team.setReg_vCount (t : Team) (r : Nat) (y : VReg) : (t.setReg r y).vCount = t.vCount := by
  unfold Team.setReg; split <;> rfl
@[simp] theorem Team.setReg_gMax (t : Team) (r : Nat) (y : VReg) : (t.setReg r y).gMax = t.gMax := by
  unfold Team.setReg; split <;> rfl
@[simp] theorem Team.setReg_oCount (t : Team) (r : Nat) (y : VReg) : (t.setReg r y).oCount = t.oCount := by
  unfold Team.setReg; split <;> rfl
@[simp] theorem Team.setReg_acquired (t : Team) (r : Nat) (y : VReg) : (t.setReg r y).acquired = t.acquired := by
  unfold Team.setReg; split <;> rfl
@[simp] theorem Team.setReg_joinCtr (t : Team) (r : Nat) (y : VReg) : (t.setReg r y).joinCtr = t.joinCtr := by
  unfold Team.setReg; split <;> rfl
@[simp] theorem Team.setReg_seqCtr (t : Team) (r : Nat) (y : VReg) : (t.setReg r y).seqCtr = t.seqCtr := by
  unfold Team.setReg; split <;> rfl
@[simp] theorem Team.setReg_nextOp (t : Team) (r : Nat) (y : VReg) : (t.setReg r y).nextOp = t.nextOp := by
  unfold Team.setReg; split <;> rfl
@[simp] theorem Team.setReg_nextFrame (t : Team) (r : Nat) (y : VReg) : (t.setReg r y).nextFrame = t.nextFrame := by
  unfold Team.setReg; split <;> rfl
@[simp] theorem Team.setReg_frames (t : Team) (r : Nat) (y : VReg) : (t.setReg r y).frames = t.frames := by
  unfold Team.setReg; split <;> rfl
@[simp] theorem Team.setReg_frags (t : Team) (r : Nat) (y : VReg) : (t.setReg r y).frags = t.frags := by
  unfold Team.setReg; split <;> rfl
@[simp] theorem Team.setReg_outs (t : Team) (r : Nat) (y : VReg) : (t.setReg r y).outs = t.outs := by
  unfold Team.setReg; split <;> rfl
@[simp] theorem Team.setReg_faults (t : Team) (r : Nat) (y : VReg) : (t.setReg r y).faults = t.faults := by
  unfold Team.setReg; split <;> rfl

/-! ### finish -/

@[simp] theorem Frag.finish_entry (y : Bool) (f : Frag) : (f.finish y).entry = f.entry := rfl
@[simp] theorem Frag.finish_part (y : Bool) (f : Frag) : (f.finish y).part = f.part := rfl
@[simp] theorem Frag.finish_holds (y : Bool) (f : Frag) : (f.finish y).holds = f.holds := rfl
@[simp] theorem Frag.finish_waits (y : Bool) (f : Frag) : (f.finish y).waits = f.waits := rfl
@[simp] theorem Frag.finish_pusher (y : Bool) (f : Frag) : (f.finish y).pusher = f.pusher := rfl
@[simp] theorem Frag.finish_mask (y : Bool) (f : Frag) : (f.finish y).mask = f.mask := rfl
@[simp] theorem Frag.finish_joins (y : Bool) (f : Frag) : (f.finish y).joins = f.joins := rfl
@[simp] theorem Frag.finish_mode (y : Bool) (f : Frag) : (f.finish y).mode = f.mode := rfl
@[simp] theorem Frag.finish_priv (y : Bool) (f : Frag) : (f.finish y).priv = f.priv := rfl
@[simp] theorem Frag.finish_region (y : Bool) (f : Frag) : (f.finish y).region = f.region := rfl
@[simp] theorem Frag.finish_seq (y : Bool) (f : Frag) : (f.finish y).seq = f.seq := rfl
@[simp] theorem Frag.finish_frame (y : Bool) (f : Frag) : (f.finish y).frame = f.frame := rfl
@[simp] theorem Frag.finish_hist (y : Bool) (f : Frag) : (f.finish y).hist = f.hist := rfl
@[simp] theorem Frag.finish_release (y : Bool) (f : Frag) : (f.finish y).release = f.release := rfl
@[simp] theorem Frag.finish_since (y : Bool) (f : Frag) : (f.finish y).since = f.since := rfl
@[simp] theorem Frag.finish_passed (y : Bool) (f : Frag) : (f.finish y).passed = f.passed := rfl
@[simp] theorem Frag.finish_pc (y : Bool) (f : Frag) : (f.finish y).pc = f.nextPc := rfl

/-! ### setTeam -/

@[simp] theorem Group.setTeam_gid (g : Group) (t : Team) : (g.setTeam t).gid = g.gid := by
  unfold Group.setTeam; split <;> rfl
@[simp] theorem Group.setTeam_launch (g : Group) (t : Team) : (g.setTeam t).launch = g.launch := by
  unfold Group.setTeam; split <;> rfl
@[simp] theorem Group.setTeam_vd (g : Group) (t : Team) : (g.setTeam t).vd = g.vd := by
  unfold Group.setTeam; split <;> rfl
@[simp] theorem Group.setTeam_f2 (g : Group) (t : Team) : (g.setTeam t).f2 = g.f2 := by
  unfold Group.setTeam; split <;> rfl
@[simp] theorem Group.setTeam_f3 (g : Group) (t : Team) : (g.setTeam t).f3 = g.f3 := by
  unfold Group.setTeam; split <;> rfl
@[simp] theorem Group.setTeam_f4 (g : Group) (t : Team) : (g.setTeam t).f4 = g.f4 := by
  unfold Group.setTeam; split <;> rfl
@[simp] theorem Group.setTeam_f5 (g : Group) (t : Team) : (g.setTeam t).f5 = g.f5 := by
  unfold Group.setTeam; split <;> rfl
@[simp] theorem Group.setTeam_cluster (g : Group) (t : Team) : (g.setTeam t).cluster = g.cluster := by
  unfold Group.setTeam; split <;> rfl
@[simp] theorem Group.setTeam_die0 (g : Group) (t : Team) : (g.setTeam t).die0 = g.die0 := by
  unfold Group.setTeam; split <;> rfl
@[simp] theorem Group.setTeam_phase (g : Group) (t : Team) : (g.setTeam t).phase = g.phase := by
  unfold Group.setTeam; split <;> rfl
@[simp] theorem Group.setTeam_barriers (g : Group) (t : Team) : (g.setTeam t).barriers = g.barriers := by
  unfold Group.setTeam; split <;> rfl
@[simp] theorem Group.setTeam_rdv (g : Group) (t : Team) : (g.setTeam t).rdv = g.rdv := by
  unfold Group.setTeam; split <;> rfl
@[simp] theorem Group.setTeam_windows (g : Group) (t : Team) : (g.setTeam t).windows = g.windows := by
  unfold Group.setTeam; split <;> rfl
@[simp] theorem Group.setTeam_spcheck (g : Group) (t : Team) : (g.setTeam t).spcheck = g.spcheck := by
  unfold Group.setTeam; split <;> rfl
@[simp] theorem Group.setTeam_splitmin (g : Group) (t : Team) : (g.setTeam t).splitmin = g.splitmin := by
  unfold Group.setTeam; split <;> rfl
@[simp] theorem Group.setTeam_base (g : Group) (t : Team) : (g.setTeam t).base = g.base := by
  unfold Group.setTeam; split <;> rfl
@[simp] theorem Group.setTeam_spad (g : Group) (t : Team) : (g.setTeam t).spad = g.spad := by
  unfold Group.setTeam; split <;> rfl
@[simp] theorem Group.setTeam_mem (g : Group) (t : Team) : (g.setTeam t).mem = g.mem := by
  unfold Group.setTeam; split <;> rfl
@[simp] theorem Group.setTeam_memPoison (g : Group) (t : Team) : (g.setTeam t).memPoison = g.memPoison := by
  unfold Group.setTeam; split <;> rfl
@[simp] theorem Group.setTeam_memTags (g : Group) (t : Team) : (g.setTeam t).memTags = g.memTags := by
  unfold Group.setTeam; split <;> rfl
@[simp] theorem Group.setTeam_munit (g : Group) (t : Team) : (g.setTeam t).munit = g.munit := by
  unfold Group.setTeam; split <;> rfl
@[simp] theorem Group.setTeam_queue (g : Group) (t : Team) : (g.setTeam t).queue = g.queue := by
  unfold Group.setTeam; split <;> rfl
@[simp] theorem Group.setTeam_posted (g : Group) (t : Team) : (g.setTeam t).posted = g.posted := by
  unfold Group.setTeam; split <;> rfl
@[simp] theorem Group.setTeam_forkCtr (g : Group) (t : Team) : (g.setTeam t).forkCtr = g.forkCtr := by
  unfold Group.setTeam; split <;> rfl
@[simp] theorem Group.setTeam_since (g : Group) (t : Team) : (g.setTeam t).since = g.since := by
  unfold Group.setTeam; split <;> rfl
@[simp] theorem Group.setTeam_restarted (g : Group) (t : Team) : (g.setTeam t).restarted = g.restarted := by
  unfold Group.setTeam; split <;> rfl
@[simp] theorem Group.setTeam_refused (g : Group) (t : Team) : (g.setTeam t).refused = g.refused := by
  unfold Group.setTeam; split <;> rfl
@[simp] theorem Group.setTeam_untagged (g : Group) (t : Team) : (g.setTeam t).untagged = g.untagged := by
  unfold Group.setTeam; split <;> rfl
@[simp] theorem Group.setTeam_lazyRows (g : Group) (t : Team) : (g.setTeam t).lazyRows = g.lazyRows := by
  unfold Group.setTeam; split <;> rfl
@[simp] theorem Group.setTeam_lazySpad (g : Group) (t : Team) : (g.setTeam t).lazySpad = g.lazySpad := by
  unfold Group.setTeam; split <;> rfl

end Sys2Proof.Machine
end

