-- ==== Sys2Proof/Laws/Agents.lean ====
section
/-!
SUPPORT. The issuing fragment: what finding it says, and what putting it back changes and leaves.
-/
namespace Sys2Proof.Machine

/-! ### Lookups after an update by name -/

/-- Replacing every member with the key of a new one does not change what other keys find. -/
theorem find?_replace {α β : Type} [DecidableEq β] [BEq β] [LawfulBEq β] (key : α → β) (l : List α) (x : α) (k : β) (h : k ≠ key x) :
    (l.map fun e => if key e = key x then x else e).find? (fun e => key e == k) = l.find? (fun e => key e == k) := by
  induction l with
  | nil => rfl
  | cons e l ih =>
    simp only [List.map_cons, List.find?_cons]
    by_cases he : key e = key x
    · rw [if_pos he]
      have h1 : (key x == k) = false := by simpa using Ne.symm h
      have h2 : (key e == k) = false := by simpa [he] using Ne.symm h
      rw [h1, h2]; exact ih
    · rw [if_neg he, ih]

/-- Where a key finds a member, replacing it makes the key find the new one. -/
theorem find?_replace_self {α β : Type} [DecidableEq β] [BEq β] [LawfulBEq β] (key : α → β) (l : List α) (x y : α)
    (h : l.find? (fun e => key e == key x) = some y) :
    (l.map fun e => if key e = key x then x else e).find? (fun e => key e == key x) = some x := by
  induction l with
  | nil => simp at h
  | cons e l ih =>
    simp only [List.map_cons, List.find?_cons]
    by_cases he : key e = key x
    · simp [he]
    · rw [if_neg he]
      have h1 : (key e == key x) = false := by simpa using he
      simp only [List.find?_cons, h1] at h ⊢
      exact ih h

theorem State.group?_gid {s : State} {gid : Nat} {g : Group} (h : s.group? gid = some g) : g.gid = gid := by
  simpa using List.find?_some h

theorem State.group?_setGroup {s : State} {g g' : Group} (h : s.group? g.gid = some g') : (s.setGroup g).group? g.gid = some g :=
  find?_replace_self Group.gid s.groups g g' h

theorem State.group?_setGroup_ne {s : State} {g : Group} {gid : Nat} (h : gid ≠ g.gid) : (s.setGroup g).group? gid = s.group? gid :=
  find?_replace Group.gid s.groups g gid h

theorem Team.frag?_key {t : Team} {e p : Nat} {f : Frag} (h : t.frag? e p = some f) : f.entry = e ∧ f.part = p := by
  simpa using List.find?_some h

/-- The two numbers of a fragment as one key. -/
theorem Team.frag?_pair (t : Team) (e p : Nat) : t.frag? e p = t.frags.find? fun f => (f.entry, f.part) == (e, p) := rfl

theorem Team.setFrag_pair (t : Team) (f : Frag) :
    (t.setFrag f).frags = t.frags.map fun e => if (e.entry, e.part) = (f.entry, f.part) then f else e := by
  simp [Team.setFrag]

theorem Team.frag?_setFrag {t : Team} {f f' : Frag} (h : t.frag? f.entry f.part = some f') :
    (t.setFrag f).frag? f.entry f.part = some f := by
  rw [Team.frag?_pair, Team.setFrag_pair]
  exact find?_replace_self (fun e : Frag => (e.entry, e.part)) t.frags f f' h

theorem Team.frag?_setFrag_ne {t : Team} {f : Frag} {e p : Nat} (h : ¬(e = f.entry ∧ p = f.part)) :
    (t.setFrag f).frag? e p = t.frag? e p := by
  rw [Team.frag?_pair, Team.frag?_pair, Team.setFrag_pair]
  exact find?_replace (fun e : Frag => (e.entry, e.part)) t.frags f (e, p) (by simpa [Prod.ext_iff] using h)

/-! ### Teams of a group -/

/-- The context is numbered as one, and no team is (R28, R52). -/
def Group.numbered (g : Group) : Prop := (∀ t ∈ g.teams, t.tid ≠ coreTid) ∧ ∀ c, g.core = some c → c.tid = coreTid

theorem Group.numbered_of_shaped {g : Group} (h : g.shaped = true) : g.numbered := by
  simp only [Group.shaped, Bool.and_eq_true, List.all_eq_true] at h
  refine ⟨fun t ht => ?_, fun c hc => ?_⟩
  · have := (h.1 t ht).2
    simp only [decide_eq_true_eq] at this
    exact Nat.ne_of_lt this
  · have := h.2
    rw [hc] at this
    simpa using (Bool.and_eq_true_iff.1 this).2

theorem Group.team?_tid {g : Group} (hn : g.numbered) {tid : Nat} {t : Team} (h : g.team? tid = some t) : t.tid = tid := by
  unfold Group.team? at h
  split at h
  · rename_i he
    rw [he]; exact hn.2 t h
  · simpa using List.find?_some h

theorem Group.team?_setTeam {g : Group} {t t' : Team} (h : g.team? t.tid = some t') : (g.setTeam t).team? t.tid = some t := by
  unfold Group.team? at h ⊢
  unfold Group.setTeam
  split
  · rfl
  · rename_i he
    rw [if_neg he] at h
    exact find?_replace_self Team.tid g.teams t t' h

theorem Group.team?_setTeam_ne {g : Group} {t : Team} {tid : Nat} (h : tid ≠ t.tid) : (g.setTeam t).team? tid = g.team? tid := by
  unfold Group.team? Group.setTeam
  split
  · rename_i he
    rw [if_neg (by rw [← he]; exact Ne.symm h)]
  · split
    · rfl
    · exact find?_replace Team.tid g.teams t tid h

/-! ### The issuing fragment -/

theorem State.here_iff {s : State} {h : Here} : s.here = some h ↔
    s.group? s.cur.gid = some h.group ∧ h.group.team? s.cur.tid = some h.team ∧ h.team.frag? s.cur.ent s.cur.part = some h.frag ∧
      h.clock = s.clock ∧ h.fresh = s.fresh := by
  unfold State.here
  cases hg : s.group? s.cur.gid with
  | none => simp
  | some g =>
    dsimp only
    cases ht : g.team? s.cur.tid with
    | none => simp only [reduceCtorEq, Option.some.injEq, false_iff]; rintro ⟨rfl, h2, -⟩; rw [ht] at h2; exact absurd h2 (by simp)
    | some t =>
      dsimp only
      cases hf : t.frag? s.cur.ent s.cur.part with
      | none =>
        simp only [reduceCtorEq, Option.some.injEq, false_iff]
        rintro ⟨rfl, h2, h3, -⟩
        rw [ht] at h2; cases h2
        rw [hf] at h3; exact absurd h3 (by simp)
      | some f =>
        simp only [Option.some.injEq]
        constructor
        · rintro rfl; exact ⟨rfl, ht, hf, rfl, rfl⟩
        · rintro ⟨h1, h2, h3, h4, h5⟩
          cases h; simp only at h1 h2 h3 h4 h5
          subst h1; rw [ht] at h2; cases h2; rw [hf] at h3; cases h3
          subst h4 h5; rfl

theorem State.numbered_of_here {s : State} {h : Here} (hs : s.shaped = true) (hh : s.here = some h) : h.group.numbered := by
  obtain ⟨hg, -⟩ := State.here_iff.1 hh
  simp only [State.shaped, Bool.and_eq_true, List.all_eq_true] at hs
  exact Group.numbered_of_shaped (hs.1 _ (List.mem_of_find?_eq_some hg))

theorem issue_here {s : State} {h : Here} (hh : s.here = some h) (k : Here → Here) : issue s k = .next (s.put (k h)) := by
  unfold issue; rw [hh]

theorem issueS_here {s : State} {h : Here} (hh : s.here = some h) (k : Here → State) : issueS s k = .next (k h) := by
  unfold issueS; rw [hh]

/-- What putting the issuing fragment back gives, where a meaning kept the numbers by which it, its team and its group are
found, the other fragments of its team and the rest of its group. -/
theorem State.put_local {s : State} {h h' : Here} (hn : h.group.numbered) (hh : s.here = some h)
    (hg : h'.group = { h.group with restarted := h'.group.restarted }) (ht : h'.team.tid = h.team.tid)
    (hfs : h'.team.frags = h.team.frags) (he : h'.frag.entry = h.frag.entry) (hp : h'.frag.part = h.frag.part) :
    Local s (s.put h') h
      { group := h'.group.setTeam (h'.team.setFrag h'.frag), team := h'.team.setFrag h'.frag, frag := h'.frag,
        clock := h.clock, fresh := h'.fresh } := by
  obtain ⟨h1, h2, h3, h4, h5⟩ := State.here_iff.1 hh
  have k1 := State.group?_gid h1
  have k2 := Group.team?_tid hn h2
  obtain ⟨k3, k4⟩ := Team.frag?_key h3
  have g1 : (h'.group.setTeam (h'.team.setFrag h'.frag)).gid = s.cur.gid := by
    rw [← k1, hg]; unfold Group.setTeam; split <;> rfl
  have t1 : (h'.team.setFrag h'.frag).tid = s.cur.tid := by simp [ht, k2]
  have f1 : h'.team.frag? s.cur.ent s.cur.part = some h.frag := by
    unfold Team.frag? at h3 ⊢; rw [hfs]; exact h3
  have q1 : h'.group.team? s.cur.tid = some h.team := by rw [hg]; exact h2
  constructor
  · rw [State.here_iff]
    refine ⟨?_, ?_, ?_, ?_, rfl⟩
    · show (s.setGroup _).group? s.cur.gid = _
      rw [← g1]
      exact State.group?_setGroup (g' := h.group) (by rw [g1]; exact h1)
    · show Group.team? _ s.cur.tid = _
      rw [← t1]
      exact Group.team?_setTeam (t' := h.team) (by rw [t1]; exact q1)
    · show (h'.team.setFrag h'.frag).frag? s.cur.ent s.cur.part = _
      rw [← k3, ← k4, ← he, ← hp]
      exact Team.frag?_setFrag (f' := h.frag) (by rw [he, hp, k3, k4]; exact f1)
    · exact h4
  · rfl
  · show h'.group.setTeam _ = { h.group with
      teams := (h'.group.setTeam (h'.team.setFrag h'.frag)).teams, core := (h'.group.setTeam (h'.team.setFrag h'.frag)).core,
      restarted := (h'.group.setTeam (h'.team.setFrag h'.frag)).restarted }
    rw [hg]; unfold Group.setTeam; split <;> rfl
  · intro gid hne
    exact State.group?_setGroup_ne (by rw [g1]; exact hne)
  · intro tid hne
    show (h'.group.setTeam _).team? tid = _
    rw [Group.team?_setTeam_ne (by rw [t1]; exact hne), hg]; rfl
  · intro e p hne
    show (h'.team.setFrag h'.frag).frag? e p = _
    rw [Team.frag?_setFrag_ne (by rw [he, hp, k3, k4]; exact hne)]
    unfold Team.frag?; rw [hfs]
  · refine ⟨fun sp a => ?_, fun a => rfl⟩
    cases sp with
    | device => rfl
    | tier2 => rfl
    | scratch gid =>
      show (match (s.setGroup (h'.group.setTeam (h'.team.setFrag h'.frag))).group? gid with
        | some g => Memory.get g.mem a
        | none => 0#8) = (match s.group? gid with
        | some g => Memory.get g.mem a
        | none => 0#8)
      by_cases hc : gid = s.cur.gid
      · subst hc
        have : (s.setGroup (h'.group.setTeam (h'.team.setFrag h'.frag))).group? s.cur.gid =
            some (h'.group.setTeam (h'.team.setFrag h'.frag)) := by
          rw [← g1]; exact State.group?_setGroup (g' := h.group) (by rw [g1]; exact h1)
        have m : (h'.group.setTeam (h'.team.setFrag h'.frag)).mem = h.group.mem := by
          rw [hg]; unfold Group.setTeam; split <;> rfl
        rw [this, h1]
        exact congrArg (Memory.get · a) m
      · rw [State.group?_setGroup_ne (by rw [g1]; exact hc)]

end Sys2Proof.Machine
end

