-- ==== Sys2Proof/Laws/Mask.lean ====
section
/-!
SUPPORT. Lanes of masks: membership after each operation, and the lowest lane.
-/
namespace Sys2Proof

@[simp] theorem Mask.has_zero (t : Nat) : Mask.has 0#1024 t = false := by simp [Mask.has]
@[simp] theorem Mask.has_and (m n : Mask) (t : Nat) : Mask.has (m &&& n) t = (m.has t && n.has t) := by simp [Mask.has]
@[simp] theorem Mask.has_or (m n : Mask) (t : Nat) : Mask.has (m ||| n) t = (m.has t || n.has t) := by simp [Mask.has]
theorem Mask.has_not (m : Mask) (t : Nat) : Mask.has (~~~m) t = (decide (t < 1024) && !m.has t) := by
  simp [Mask.has, BitVec.getLsbD_not]
theorem Mask.has_single (k t : Nat) : Mask.has (BitVec.ofNat 1024 (2 ^ k)) t = (decide (t < 1024) && decide (t = k)) := by
  rw [Mask.has, BitVec.getLsbD_ofNat, Nat.testBit_two_pow, decide_eq_decide.2 (eq_comm (a := k))]

theorem Mask.lt_of_has {m : Mask} {t : Nat} (h : m.has t = true) : t < 1024 := BitVec.lt_of_getLsbD h

theorem Mask.ofPred_succ (n : Nat) (p : Nat → Bool) :
    Mask.ofPred (n + 1) p = if p n then Mask.ofPred n p ||| BitVec.ofNat 1024 (2 ^ n) else Mask.ofPred n p := by
  simp [Mask.ofPred, List.range_succ]

/-- The lanes of a mask made from a predicate. -/
@[simp] theorem Mask.has_ofPred (n : Nat) (p : Nat → Bool) (t : Nat) :
    Mask.has (Mask.ofPred n p) t = (decide (t < n) && decide (t < 1024) && p t) := by
  induction n with
  | zero => simp [Mask.ofPred]
  | succ n ih =>
    rw [Mask.ofPred_succ]
    by_cases hn : t = n
    · subst hn
      split <;> rename_i hp
      · rw [Mask.has_or, Mask.has_single, ih]; simp [hp]
      · rw [ih]; simp [hp]
    · have : decide (t < n + 1) = decide (t < n) := decide_eq_decide.2 (by omega)
      rw [this]
      split
      · rw [Mask.has_or, Mask.has_single, ih]; simp [hn]
      · rw [ih]

theorem Mask.has_first (n t : Nat) : Mask.has (Mask.first n) t = (decide (t < n) && decide (t < 1024)) := by
  simp only [Mask.has, Mask.first, BitVec.getLsbD_ofNat, Nat.testBit_two_pow_sub_one]
  exact Bool.and_comm ..

@[simp] theorem Mask.mem_lanes {m : Mask} {n t : Nat} : t ∈ m.lanes n ↔ t < n ∧ m.has t = true := by
  simp [Mask.lanes]

/-- Two masks with the same lanes are equal. -/
theorem Mask.ext_has {m n : Mask} (h : ∀ t, m.has t = n.has t) : m = n := BitVec.eq_of_getLsbD_eq fun t _ => h t

theorem Mask.exists_has {m : Mask} (h : m ≠ 0#1024) : ∃ t, m.has t = true := by
  by_contra hn
  exact h (Mask.ext_has fun t => by simpa using fun ht => hn ⟨t, ht⟩)

/-- The lowest lane is a lane of the mask, where it has one among the n. -/
theorem Mask.lowest_mem {m : Mask} {n t : Nat} (ht : t < n) (hm : m.has t = true) : m.lowest n < n ∧ m.has (m.lowest n) = true := by
  have hne : m.lanes n ≠ [] := List.ne_nil_of_mem (Mask.mem_lanes.2 ⟨ht, hm⟩)
  obtain ⟨a, l, hl⟩ := List.exists_cons_of_ne_nil hne
  have ha : m.lowest n = a := by simp [Mask.lowest, hl]
  rw [ha]
  exact Mask.mem_lanes.1 (hl ▸ List.mem_cons_self)

end Sys2Proof
end

