-- ==== Sys2Proof/Laws/Registers.lean ====
section
/-!
SUPPORT. Reads and writes of registers: what a lane reads after a write of the shared operations, whatever the shape.
-/
namespace Sys2Proof.Machine

/-! ### One register -/

/-- The team holds a register for the specifier. -/
def Team.holds (tm : Team) (r : Nat) : Prop := if r < 0xC0 then r < tm.v.length else r - 0xC0 < tm.o.length

theorem Team.reg_setReg {tm : Team} {r : Nat} (x : VReg) (h : tm.holds r) (q : Nat) :
    (tm.setReg r x).reg q = if q = r then x else tm.reg q := by
  unfold Team.holds at h
  unfold Team.setReg Team.reg
  by_cases hr : r < 0xC0
  · simp only [if_pos hr] at h ⊢
    by_cases hq : q < 0xC0
    · simp only [if_pos hq, List.getElem?_set]
      by_cases e : q = r
      · subst e; simp [h]
      · rw [if_neg (Ne.symm e), if_neg e]
    · simp only [if_neg hq]
      rw [if_neg (by omega)]
  · simp only [if_neg hr] at h ⊢
    by_cases hq : q < 0xC0
    · simp only [if_pos hq]
      rw [if_neg (by omega)]
    · simp only [if_neg hq, List.getElem?_set]
      by_cases e : q = r
      · subst e; simp [h]
      · rw [if_neg (by omega), if_neg e]

theorem Team.holds_setReg {tm : Team} {r q : Nat} {x : VReg} : (tm.setReg r x).holds q ↔ tm.holds q := by
  unfold Team.holds Team.setReg
  by_cases hr : r < 0xC0 <;> simp [hr]

/-- A shape says no less than the values: one value for the lanes written, or values that rise by a stride. -/
def Value.Sound (e0 : Nat) (act : Mask) (sh : Shape) (f : Nat → Word) : Prop :=
  (sh = .u → ∀ k < e0, act.has k = true → f k = f (act.lowest e0)) ∧
  (sh = .a → ∀ k < e0, act.has k = true → f k = f 0 + (f 1 - f 0) * BitVec.ofNat 32 k)

theorem VReg.write_lane {r : VReg} {e0 : Nat} {act : Mask} {sh : Shape} {f : Nat → Word} (hs : Value.Sound e0 act sh f) {k : Nat}
    (hk : k < e0) (ha : act.has k = true) : (r.write e0 act sh f).val.lane k = f k ∧ (r.write e0 act sh f).poisoned k = false := by
  cases sh with
  | u => exact ⟨(hs.1 rfl k hk ha).symm, by simp [VReg.write, VReg.poisoned]⟩
  | a => exact ⟨(hs.2 rfl k hk ha).symm, by simp [VReg.write, VReg.poisoned]⟩
  | g =>
    refine ⟨by simp [VReg.write, Value.lane, hk, ha], ?_⟩
    simp [VReg.write, VReg.poisoned, Mask.has_not, ha]

theorem VReg.write_kept {r : VReg} {e0 : Nat} {act : Mask} {f : Nat → Word} {k : Nat} (hk : k < e0) (h1 : k < 1024)
    (ha : act.has k = false) : (r.write e0 act .g f).val.lane k = r.val.lane k ∧ (r.write e0 act .g f).poisoned k = r.poisoned k := by
  refine ⟨by simp [VReg.write, Value.lane, hk, ha], ?_⟩
  unfold VReg.poisoned VReg.write
  cases hv : r.val with
  | g ws => simp [Mask.has_not, ha, h1]
  | u w =>
    by_cases hp : r.poison = 0#1024
    · simp [hp]
    · simp [hp, Mask.has_not, ha, h1, hk, Mask.has_first]
  | a b s =>
    by_cases hp : r.poison = 0#1024
    · simp [hp]
    · simp [hp, Mask.has_not, ha, h1, hk, Mask.has_first]

/-! ### The shared write of a result -/

theorem Team.reg_congr {a b : Team} (hv : a.v = b.v) (ho : a.o = b.o) (r : Nat) : a.reg r = b.reg r := by
  unfold Team.reg; rw [hv, ho]

theorem Here.read_reg (h : Here) {r : Nat} (hr : r < 0xD0) (t : Nat) : h.read r t = (h.team.reg r).val.lane t := by
  unfold Here.read; rw [if_pos hr]

/-- Every word of a result has the shape it is written with. -/
def Sound (h : Here) (words : Nat) (act : Mask) (sh : Shape) (f : Nat → Nat) : Prop :=
  ∀ w < words, Value.Sound h.team.e0 act sh fun k => BitVec.ofNat 32 (f k / 2 ^ (32 * w))

theorem Value.Sound.toG {e0 : Nat} {act : Mask} {sh : Shape} {f : Nat → Word} (h : Value.Sound e0 act sh f) (b : Prop) [Decidable b] :
    Value.Sound e0 act (if b then sh else .g) f := by
  split
  · exact h
  · exact ⟨by simp, by simp⟩

/-- The registers and the last-result file after the shared write of a result. -/
theorem Here.write_wrote {h h' : Here} {y : Bool} {r words : Nat} {act : Mask} {sh : Shape} {f : Nat → Nat} (hw : words = 1 ∨ words = 2)
    (hr : r < 0xD0 → ∀ w < words, r + w < 0xD0 ∧ h.team.holds (r + w)) (hs : Sound h words act sh f)
    (hsh : sh ≠ .g → act = h.team.live ∨ h.team.isCore = true)
    (hv : h'.team.v = (h.write r words act sh f).team.v) (ho : h'.team.o = (h.write r words act sh f).team.o)
    (hx : h'.frag.x = if y then [] else (h.write r words act sh f).frag.x) : Wrote y r words act f h h' := by
  by_cases h0 : act = 0#1024
  · have e : h.write r words act sh f = h := by unfold Here.write; rw [if_pos h0]
    rw [e] at hv ho hx
    have rg := Team.reg_congr hv ho
    refine ⟨?_, ?_, ?_, ?_, ?_, ?_⟩
    · intro _ k _ ha; rw [h0, Mask.has_zero] at ha; exact absurd ha (by simp)
    · intro hr' k _ _ _ _ w hw'
      rw [Here.read_reg _ (hr hr' w hw').1, Here.read_reg _ (hr hr' w hw').1, rg]; exact ⟨rfl, rfl⟩
    · intro q _ _; exact rg q
    · intro _ hne; exact absurd h0 hne
    · intro hy _; rw [hx, hy]; rfl
    · intro hy; rw [hx, hy]; rfl
  · -- the registers after the write
    have rg : r < 0xD0 → ∀ q, h'.team.reg q = if ∃ w < words, q = r + w then
        (h.team.reg q).write h.team.e0 act (if r < 0xC0 then sh else .g) (fun t => BitVec.ofNat 32 (f t / 2 ^ (32 * (q - r))))
        else h.team.reg q := by
      intro hr' q
      rw [Team.reg_congr hv ho]
      have hd : ∀ k, h.destOld r k = h.team.reg (r + k) := fun k => by unfold Here.destOld; rw [if_pos hr']
      rcases hw with rfl | rfl
      · have e : (h.write r 1 act sh f).team = h.team.setReg (r + 0)
            ((h.team.reg (r + 0)).write h.team.e0 act (if r < 0xC0 then sh else .g) (fun t => BitVec.ofNat 32 (f t / 2 ^ (32 * 0)))) := by
          unfold Here.write; rw [if_neg h0]; simp only [if_pos hr', hd]; rfl
        rw [e, Team.reg_setReg _ (hr hr' 0 (by omega)).2]
        by_cases hq : q = r
        · subst hq; rw [if_pos (c := q = q + 0) (by omega), if_pos (c := ∃ w < 1, q = q + w) ⟨0, by omega, by omega⟩]; simp
        · rw [if_neg (by omega), if_neg (by rintro ⟨w, h1, h2⟩; omega)]
      · have e : (h.write r 2 act sh f).team = (h.team.setReg (r + 0)
            ((h.team.reg (r + 0)).write h.team.e0 act (if r < 0xC0 then sh else .g) (fun t => BitVec.ofNat 32 (f t / 2 ^ (32 * 0))))).setReg (r + 1)
            ((h.team.reg (r + 1)).write h.team.e0 act (if r < 0xC0 then sh else .g) (fun t => BitVec.ofNat 32 (f t / 2 ^ (32 * 1)))) := by
          unfold Here.write; rw [if_neg h0]; simp only [if_pos hr', hd]; rfl
        rw [e, Team.reg_setReg _ (Team.holds_setReg.2 (hr hr' 1 (by omega)).2), Team.reg_setReg _ (hr hr' 0 (by omega)).2]
        by_cases hq : q = r + 1
        · subst hq; rw [if_pos rfl, if_pos (c := ∃ w < 2, r + 1 = r + w) ⟨1, by omega, rfl⟩]; simp
        · rw [if_neg hq]
          by_cases hq : q = r
          · subst hq; rw [if_pos (c := q = q + 0) (by omega), if_pos (c := ∃ w < 2, q = q + w) ⟨0, by omega, by omega⟩]; simp
          · rw [if_neg (by omega), if_neg (by rintro ⟨w, h1, h2⟩; omega)]
    have xs : (h.write r words act sh f).frag.x =
        (({ lo := ((h.destOld r 0).write h.team.e0 act sh (fun t => BitVec.ofNat 32 (f t / 2 ^ (32 * 0)))).val,
            hi := if words = 2 then some ((h.destOld r 1).write h.team.e0 act sh (fun t => BitVec.ofNat 32 (f t / 2 ^ (32 * 1)))).val else none } : XEntry)
          :: h.frag.x).take 4 := by
      unfold Here.write; rw [if_neg h0]; rfl
    refine ⟨?_, ?_, ?_, ?_, ?_, ?_⟩
    · intro hr' k hk ha w hw'
      have e := rg hr' (r + w)
      rw [if_pos ⟨w, hw', rfl⟩, Nat.add_sub_cancel_left] at e
      rw [Here.read_reg _ (hr hr' w hw').1, e]
      exact VReg.write_lane ((hs w hw').toG (r < 0xC0)) hk ha
    · intro hr' k hk ha hl hc w hw'
      have hna : act.has k = false := by simpa using ha
      have e := rg hr' (r + w)
      rw [if_pos ⟨w, hw', rfl⟩] at e
      have hg : (if r < 0xC0 then sh else .g) = Shape.g := by
        by_contra hne
        have : sh ≠ .g := by rintro rfl; exact hne (by split <;> rfl)
        rcases hsh this with ha' | hcore
        · rw [ha', hl] at hna; exact absurd hna (by simp)
        · rcases hc with hc | hc
          · rw [hcore] at hc; exact absurd hc (by simp)
          · exact h0 hc
      rw [hg] at e
      rw [Here.read_reg _ (hr hr' w hw').1, Here.read_reg _ (hr hr' w hw').1, e]
      exact VReg.write_kept hk (Mask.lt_of_has hl) hna
    · intro q hq ho'
      by_cases hr' : r < 0xD0
      · rw [rg hr' q, if_neg]
        rintro ⟨w, h1, rfl⟩
        rcases ho' with h2 | h2 | h2
        · omega
        · omega
        · exact h0 h2
      · rw [Team.reg_congr hv ho]
        have e : (h.write r words act sh f).team = h.team := by
          unfold Here.write; rw [if_neg h0]; simp only [if_neg hr']
        rw [e]
    · intro hy _
      rw [hx, hy, xs]
      refine ⟨_, rfl, ?_, fun k hk ha => ⟨?_, ?_⟩⟩
      · by_cases h2 : words = 2 <;> simp [h2]
      · have := (VReg.write_lane (r := h.destOld r 0) (hs 0 (by omega)) hk ha).1
        simpa using this
      · intro hi he
        by_cases h2 : words = 2
        · have := (VReg.write_lane (r := h.destOld r 1) (hs 1 (by omega)) hk ha).1
          simp only [if_pos h2, Option.some.injEq] at he
          rw [← he]; simpa using this
        · simp [h2] at he
    · intro _ hz; exact absurd hz h0
    · intro hy; rw [hx, hy]; rfl

/-! ### Condition codes -/

theorem ccGet_ccSet (w : BitVec 16) (c k : Nat) (hc : c < 4) (hk : k < 4) (f : Flags) :
    ccGet (ccSet w c f) k = if k = c then f else ccGet w k := by
  obtain ⟨n, z, cc, v⟩ := f
  have hc' : c = 0 ∨ c = 1 ∨ c = 2 ∨ c = 3 := by omega
  have hk' : k = 0 ∨ k = 1 ∨ k = 2 ∨ k = 3 := by omega
  rcases hc' with rfl | rfl | rfl | rfl <;> rcases hk' with rfl | rfl | rfl | rfl <;> cases n <;> cases z <;> cases cc <;> cases v <;>
    simp [ccGet, ccSet, Flags.bits]

theorem Team.ccOf_writeCc {tm : Team} {c k t : Nat} {act : Mask} {f : Nat → Flags} (hc : c < 4) (hk : k < 4) (ht : t < tm.cc.length) :
    (tm.writeCc c act f).ccOf k t = if k = c ∧ act.has t = true then f t else tm.ccOf k t := by
  unfold Team.ccOf Team.writeCc
  simp only [List.getElem?_map, List.getElem?_zipIdx, ht, List.getElem?_eq_getElem, Option.map_some, Option.getD_some, Nat.zero_add]
  by_cases ha : act.has t
  · simp only [ha, if_true, ccGet_ccSet _ _ _ hc hk, and_true]
  · simp [ha]

end Sys2Proof.Machine
end

