-- ==== Sys2Proof/Laws/Shapes.lean ====
section
/-!
SUPPORT. Shape tags are sound: a result whose shape shape_of gives as U or A has the values that the tag says, in every lane
that is written (R62, R64, R70).
-/
namespace Sys2Proof.Machine

/-- Both words of each last-result entry have one shape. -/
def Frag.xShaped (f : Frag) : Prop := ∀ e ∈ f.x, ∀ hi, e.hi = some hi → hi.shape = e.lo.shape

theorem Value.lane_u {v : Value} (h : v.shape = .u) (t t' : Nat) : v.lane t = v.lane t' := by
  cases v <;> simp_all [Value.shape, Value.lane]

/-- A value that is not G is a line. -/
theorem Value.lane_a {v : Value} (h : v.shape ≠ .g) : ∃ b s : Word, ∀ t, v.lane t = b + s * BitVec.ofNat 32 t := by
  cases v with
  | u w => exact ⟨w, 0#32, fun t => by simp [Value.lane]⟩
  | a b s => exact ⟨b, s, fun t => rfl⟩
  | g ws => simp [Value.shape] at h

theorem Here.read_line {h : Here} (hc : h.team.isCore = false) {r : Nat} (hr : h.shapeWord r ≠ .g) :
    ∃ b s : Word, (∀ t, h.read r t = b + s * BitVec.ofNat 32 t) ∧ (h.shapeWord r = .u → s = 0#32) := by
  unfold Here.shapeWord at hr ⊢
  unfold Here.read
  rw [hc] at hr ⊢
  simp only [Bool.false_eq_true, if_false] at hr ⊢
  have fromVal : ∀ v : Value, v.shape ≠ .g → ∃ b s : Word, (∀ t, v.lane t = b + s * BitVec.ofNat 32 t) ∧ (v.shape = .u → s = 0#32) := by
    intro v hv
    cases v with
    | u w => exact ⟨w, 0#32, fun t => by simp [Value.lane], fun _ => rfl⟩
    | a b s => exact ⟨b, s, fun t => rfl, fun e => by simp [Value.shape] at e⟩
    | g ws => simp [Value.shape] at hv
  by_cases h1 : r < 0xC0
  · have h2 : r < 0xD0 := by omega
    simp only [h1, h2, if_true] at hr ⊢
    exact fromVal _ hr
  · simp only [h1, if_false] at hr ⊢
    by_cases h2 : r < 0xD0
    · simp only [h2, if_true, ne_eq, not_true_eq_false] at hr
    · simp only [h2, if_false] at hr ⊢
      by_cases h3 : r < 0xD4
      · simp only [h3, if_true] at hr ⊢
        cases hx : h.frag.x[r - 0xD0]? with
        | none => simp
        | some e => rw [hx] at hr; simpa using fromVal e.lo (by simpa using hr)
      · simp only [h3, if_false] at hr ⊢
        by_cases h5 : r = 0xD5
        · simp only [h5, if_true]
          exact ⟨0#32, 1#32, fun t => by simp, fun e => by simp at e⟩
        · simp only [h5, if_false]
          by_cases h6 : r = 0xD6
          · simp [h6]
          · by_cases h7 : r = 0xD7
            · simp [h7]
            · by_cases h8 : r = 0xD8
              · simp [h8]
              · simp [h6, h7, h8]

theorem Here.readHigh_line {h : Here} (hc : h.team.isCore = false) (hx : h.frag.xShaped) {r : Nat} (hr : h.shapeN r 2 ≠ .g) :
    ∃ b s : Word, (∀ t, h.readHigh r t = b + s * BitVec.ofNat 32 t) ∧ (h.shapeN r 2 = .u → s = 0#32) := by
  unfold Here.shapeN at hr ⊢
  unfold Here.readHigh
  by_cases h1 : r < 0xD0
  · have h2 : ¬ (0xD0 ≤ r) := by omega
    simp only [h1, h2, if_true, or_self, if_false, OfNat.ofNat_ne_one] at hr ⊢
    by_cases he : h.shapeWord r = h.shapeWord (r + 1)
    · simp only [he, if_true] at hr ⊢
      obtain ⟨b, s, hb, hu⟩ := Here.read_line hc hr
      by_cases h3 : r + 1 < 0xD0
      · exact ⟨b, s, fun t => by rw [← hb t, Here.read_reg _ h3], hu⟩
      · -- the odd register of a pair is a register too, so this is the pair at 0xCF, which no check passes
        have : r = 0xCF := by omega
        subst this
        have := he
        simp only [Here.shapeWord, hc, Bool.false_eq_true, if_false] at this hr
        by_cases hq : h.frag.x[0]?.isSome
        · exfalso
          revert hr; rw [← this]; simp
        · exfalso
          revert hr; rw [← this]; simp
    · simp only [he, if_false, ne_eq, not_true_eq_false] at hr
  · have h2 : 0xD0 ≤ r := by omega
    simp only [h1, h2, if_false, or_true, if_true] at hr ⊢
    by_cases h3 : r < 0xD4
    · simp only [h3, if_true]
      have hs : h.shapeWord r = ((h.frag.x[r - 0xD0]?).map fun e => e.lo.shape).getD .u := by
        unfold Here.shapeWord
        rw [hc]
        simp only [Bool.false_eq_true, if_false]
        rw [if_neg (by omega), if_neg (by omega), if_pos h3]
      rw [hs] at hr ⊢
      cases hq : h.frag.x[r - 0xD0]? with
      | none => exact ⟨0#32, 0#32, fun t => by simp, fun _ => rfl⟩
      | some e =>
        rw [hq] at hr
        simp only [Option.map_some, Option.getD_some] at hr ⊢
        obtain ⟨lo, hi⟩ := e
        cases hi with
        | some hi =>
          have hsh := hx _ (List.mem_of_getElem? hq) hi rfl
          cases hi with
          | u w => exact ⟨w, 0#32, fun t => by simp [Value.lane], fun _ => rfl⟩
          | a b s => exact ⟨b, s, fun t => rfl, fun e => by simp only at hsh; rw [← hsh] at e; simp [Value.shape] at e⟩
          | g ws => simp only at hsh hr; rw [← hsh] at hr; simp [Value.shape] at hr
        | none =>
          cases lo with
          | g ws => simp [Value.shape] at hr
          | u w => exact ⟨_, 0#32, fun t => by simp; rfl, fun _ => rfl⟩
          | a b s => exact ⟨_, 0#32, fun t => by simp; rfl, fun _ => rfl⟩
    · simp only [h3, if_false]
      exact ⟨0#32, 0#32, fun t => by simp, fun _ => rfl⟩

/-- A uniform operand reads alike in every lane. -/
theorem Here.readN_uniform {h : Here} (hc : h.team.isCore = false) (hx : h.frag.xShaped) {r words : Nat} (hw : words = 1 ∨ words = 2)
    (hr : h.shapeN r words = .u) (t t' : Nat) : h.readN r words t = h.readN r words t' := by
  have low : h.shapeWord r = .u → h.read r t = h.read r t' := fun e => by
    obtain ⟨b, s, hb, hu⟩ := Here.read_line hc (r := r) (by rw [e]; simp)
    rw [hb, hb, hu e]; simp
  rcases hw with rfl | rfl
  · have : h.shapeWord r = .u := by simpa [Here.shapeN] using hr
    show (h.read r t).toNat = (h.read r t').toNat
    rw [low this]
  · obtain ⟨b, s, hb, hu⟩ := Here.readHigh_line hc hx (r := r) (by rw [hr]; simp)
    have hl : h.shapeWord r = .u := by
      unfold Here.shapeN at hr
      split at hr
      · exact hr
      · split at hr
        · exact hr
        · simp at hr
    show (h.read r t).toNat + 2 ^ 32 * (h.readHigh r t).toNat = (h.read r t').toNat + 2 ^ 32 * (h.readHigh r t').toNat
    rw [low hl, hb, hb, hu hr]; simp

/-! ### shape_of -/

theorem Here.shapeOf_ne_g {h : Here} {op : ShapeOp} {act : Mask} {l : List Shape} (hs : h.shapeOf op act l ≠ .g) :
    act = h.team.live ∨ h.team.isCore = true := by
  unfold Here.shapeOf at hs
  by_cases hc : h.team.isCore
  · exact .inr hc
  · rw [if_neg hc] at hs
    by_cases ha : act = h.team.live
    · exact .inl ha
    · rw [if_pos ha] at hs; exact absurd rfl hs

/-- A uniform result comes from uniform operands, or is moved from one, or stands on the control core. -/
theorem Here.shapeOf_u {h : Here} {op : ShapeOp} {act : Mask} {l : List Shape} (hs : h.shapeOf op act l = .u) :
    h.team.isCore = true ∨ l.all (· == .u) = true ∨ (op = .mov ∧ l.headD .u = .u) := by
  unfold Here.shapeOf at hs
  by_cases hc : h.team.isCore
  · exact .inl hc
  · rw [if_neg hc] at hs
    by_cases ha : act ≠ h.team.live
    · rw [if_pos ha] at hs; simp at hs
    · rw [if_neg ha] at hs
      by_cases hm : op = .mov
      · rw [if_pos hm] at hs; exact .inr (.inr ⟨hm, hs⟩)
      · rw [if_neg hm] at hs
        by_cases hu : l.all (· == .u)
        · exact .inr (.inl hu)
        · rw [if_neg hu] at hs
          split at hs
          · split at hs <;> first | (split at hs <;> simp at hs) | simp at hs
          · simp at hs

/-- An affine result is a sum or difference of operands that are not G, a product of an affine and a uniform operand, a shift
of an affine operand by a uniform amount, all at 32 bits without SAT, or is moved. -/
theorem Here.shapeOf_a {h : Here} {op : ShapeOp} {act : Mask} {l : List Shape} (hs : h.shapeOf op act l = .a) :
    h.team.isCore = false ∧ ((op = .mov ∧ l.headD .u = .a) ∨ ((h.type = 0 ∨ h.type = 1) ∧ h.sat = false ∧
      ((op = .addSub ∧ ∃ p q, l = [p, q] ∧ p ≠ .g ∧ q ≠ .g) ∨
       (op = .mul ∧ ∃ p q, l = [p, q] ∧ ((p = .a ∧ q = .u) ∨ (p = .u ∧ q = .a))) ∨
       (op = .shl ∧ ∃ p q, l = [p, q] ∧ p = .a ∧ q = .u)))) := by
  unfold Here.shapeOf at hs
  by_cases hc : h.team.isCore
  · rw [if_pos hc] at hs; simp at hs
  · refine ⟨by simpa using hc, ?_⟩
    rw [if_neg hc] at hs
    by_cases ha : act ≠ h.team.live
    · rw [if_pos ha] at hs; simp at hs
    · rw [if_neg ha] at hs
      by_cases hm : op = .mov
      · rw [if_pos hm] at hs; exact .inl ⟨hm, hs⟩
      · rw [if_neg hm] at hs
        right
        by_cases hu : l.all (· == .u)
        · rw [if_pos hu] at hs; simp at hs
        · rw [if_neg hu] at hs
          split at hs
          · rename_i ht
            refine ⟨ht.1, ht.2, ?_⟩
            split at hs
            · split at hs
              · exact .inl ⟨rfl, _, _, rfl, by assumption⟩
              · simp at hs
            · split at hs
              · exact .inr (.inl ⟨rfl, _, _, rfl, by assumption⟩)
              · simp at hs
            · split at hs
              · exact .inr (.inr ⟨rfl, _, _, rfl, by assumption⟩)
              · simp at hs
            · simp at hs
          · simp at hs

/-- On a one-lane context every result is sound; elsewhere a uniform result need only depend on its operands, and an affine
one be a line. -/
theorem Here.sound_of {h : Here} {words : Nat} {act : Mask} {sh : Shape} {f : Nat → Nat} (h1 : h.team.isCore = true → h.team.e0 = 1)
    (hu : h.team.isCore = false → sh = .u → ∀ t t', f t = f t')
    (ha : sh = .a → ∀ w < words, ∃ b s : Word, ∀ t, BitVec.ofNat 32 (f t / 2 ^ (32 * w)) = b + s * BitVec.ofNat 32 t) : Sound h words act sh f := by
  intro w hw
  constructor
  · intro e k hk hm
    by_cases hc : h.team.isCore
    · have hl := Mask.lowest_mem hk hm
      rw [h1 hc] at hk hl ⊢
      rw [show k = 0 by omega, show Mask.lowest act 1 = 0 by omega]
    · dsimp only; rw [hu (by simpa using hc) e k]
  · intro e k _ _
    obtain ⟨b, s, hb⟩ := ha e w hw
    dsimp only
    rw [hb, hb, hb]
    have e0 : s * BitVec.ofNat 32 0 = 0#32 := by simp
    have e1 : s * BitVec.ofNat 32 1 = s := by simp
    rw [e0, e1, BitVec.add_zero, BitVec.add_comm b s, BitVec.add_sub_cancel]

/-! ### Results of 32-bit integer operations as words -/

theorem ofNat_wrapTo (x : Int) : BitVec.ofNat 32 (wrapTo 32 x) = BitVec.ofInt 32 x := by
  apply BitVec.eq_of_toNat_eq
  simp only [wrapTo, BitVec.toNat_ofNat, BitVec.toNat_ofInt]
  omega

theorem ofInt_intOf (sg : Bool) (p : Nat) : BitVec.ofInt 32 (intOf sg 32 p) = BitVec.ofNat 32 p := by
  apply BitVec.eq_of_toNat_eq
  simp only [intOf, BitVec.toNat_ofNat, BitVec.toNat_ofInt]
  split <;> omega

theorem narrow_word (sg : Bool) (x : Int) :
    BitVec.ofNat 32 ((IntFmt.place ⟨32, sg⟩ (IntFmt.narrow ⟨32, sg⟩ false x)) / 2 ^ (32 * 0)) = BitVec.ofInt 32 x := by
  have e : IntFmt.place ⟨32, sg⟩ (IntFmt.narrow ⟨32, sg⟩ false x) = wrapTo 32 x := by
    simp only [IntFmt.place, IntFmt.narrow, wrapTo, Nat.le_refl, if_true, Bool.false_eq_true, if_false]
    omega
  rw [e, Nat.mul_zero, Nat.pow_zero, Nat.div_one, ofNat_wrapTo]

end Sys2Proof.Machine
end

