-- ==== Sys2Proof/Laws/Checks.lean ====
section
/-!
SUPPORT. The register checks: what a check that passes says of the fields of an instruction, and what the shared course of a
fixed-latency instruction then does.
-/
namespace Sys2Proof.Machine

/-- The state of the issuing fragment satisfies what `shaped` and `legal` say of it. -/
structure Here.Shaped (h : Here) : Prop where
  v : h.team.vCount ≤ h.team.v.length
  o : h.team.oCount ≤ h.team.o.length
  cc : h.team.cc.length = h.team.e0
  core : h.team.isCore = true → h.team.e0 = 1
  x : h.frag.xShaped

theorem Group.allTeams_of_team? {g : Group} {tid : Nat} {t : Team} (h : g.team? tid = some t) : t ∈ g.allTeams := by
  unfold Group.team? at h
  unfold Group.allTeams
  split at h
  · simp [h]
  · exact List.mem_append.2 (.inl (List.mem_of_find?_eq_some h))

theorem State.team_shaped {s : State} {h : Here} (hs : s.shaped = true) (hh : s.here = some h) : h.team.shaped = true := by
  obtain ⟨hg, ht, -⟩ := State.here_iff.1 hh
  simp only [State.shaped, Bool.and_eq_true, List.all_eq_true] at hs
  have := hs.1 _ (List.mem_of_find?_eq_some hg)
  simp only [Group.shaped, Bool.and_eq_true, List.all_eq_true] at this
  rcases List.mem_append.1 (Group.allTeams_of_team? ht) with h1 | h1
  · exact (this.1 _ h1).1.1
  · have h2 := this.2
    rw [Option.mem_toList.1 h1] at h2
    exact (Bool.and_eq_true_iff.1 (Bool.and_eq_true_iff.1 h2).1).1

theorem State.here_shaped {s : State} {h : Here} (hs : s.shaped = true) (hh : s.here = some h) : h.Shaped := by
  have ht := State.team_shaped hs hh
  obtain ⟨-, -, hf, -⟩ := State.here_iff.1 hh
  simp only [Team.shaped, Bool.and_eq_true, decide_eq_true_eq, beq_iff_eq, Bool.or_eq_true, Bool.not_eq_true', List.all_eq_true] at ht
  obtain ⟨⟨⟨⟨⟨⟨⟨h1, h2⟩, h3⟩, h4⟩, -⟩, h5⟩, h6⟩, h7⟩ := ht
  refine ⟨h1.1, h2.1, h3, fun hc => ?_, fun e he hi hhi => ?_⟩
  · rcases h5 with h5 | h5
    · rw [hc] at h5; simp at h5
    · exact h5
  · have := h7 _ (List.mem_of_find?_eq_some hf) e he
    rw [hhi] at this
    simpa using this

/-- What the checks say of a destination field. -/
theorem Here.check_dst {h : Here} (hs : h.Shaped) {u : Uses} (hc : h.check u = none) {r n : Nat} (hw : (r, n) ∈ u.writes) (hn : n = 1 ∨ n = 2) :
    r ≤ 0xD0 ∧ (r < 0xD0 → ∀ w < n, r + w < 0xD0 ∧ h.team.holds (r + w)) := by
  have hf : h.firstCheck u = none := by simpa [Here.check] using hc
  unfold Here.firstCheck at hf
  simp only at hf
  split at hf
  · simp at hf
  split at hf
  · simp at hf
  rename_i hill
  have hok : fieldOk r n true u.long = true := by
    by_contra hne
    apply hill
    rw [List.any_eq_true]
    exact ⟨((r, n), true), by simp [hw], by simpa using hne⟩
  split at hf
  · simp at hf
  rename_i hb
  have hnb : h.team.outOfBounds (r, n) = none := by
    rw [List.findSome?_eq_none_iff] at hb
    exact hb ((r, n), true) (by simp [hw])
  simp only [fieldOk, Bool.and_eq_true, decide_eq_true_eq, Bool.not_eq_true', Bool.true_and, decide_eq_false_iff_not] at hok
  refine ⟨by omega, fun hr w hwn => ?_⟩
  have hlt : r + w < 0xD0 := by
    have h4 := hok.2
    rcases hn with rfl | rfl
    · omega
    · have : r % 2 = 0 := by simpa [hr] using h4
      omega
  refine ⟨hlt, ?_⟩
  unfold Team.outOfBounds fieldWords at hnb
  simp only [hr, if_true] at hnb
  rw [List.find?_eq_none] at hnb
  have := hnb (r + w) (List.mem_map.2 ⟨w, by simpa using hwn, rfl⟩)
  unfold Team.holds
  have h1 := hs.v
  have h2 := hs.o
  split
  · rename_i hlt'
    simp only [hlt', if_true, decide_eq_true_eq] at this
    omega
  · rename_i hlt'
    simp only [hlt', if_false, decide_eq_true_eq] at this
    omega
/-! ### The shared course of a fixed-latency instruction -/

/-- Where the checks pass and the effect raises no trap, the effect happens and the instruction ends. -/
theorem Here.run_ok {h : Here} {y : Bool} {u : Uses} {k : Here → Here × Option Trap} (hc : h.check u = none) (hk : (k h).2 = none) :
    h.run y u k = { (k h).1 with fresh := if h.readsFree u then h.fresh + 4096 else h.fresh, frag := (k h).1.frag.finish y } := by
  unfold Here.run; rw [hc]; dsimp only; rw [hk]

/-- Where a check fails, its trap is raised. -/
theorem Here.run_trap {h : Here} {y : Bool} {u : Uses} {k : Here → Here × Option Trap} {t : Trap} (hc : h.check u = some t) :
    h.run y u k = h.raise u.act t := by
  unfold Here.run; rw [hc]

theorem Here.write_rest (h : Here) (r words : Nat) (act : Mask) (sh : Shape) (f : Nat → Nat) :
    (h.write r words act sh f).group = h.group ∧ (h.write r words act sh f).clock = h.clock ∧
    (h.write r words act sh f).fresh = h.fresh ∧
    (h.write r words act sh f).team = { h.team with v := (h.write r words act sh f).team.v, o := (h.write r words act sh f).team.o } ∧
    (h.write r words act sh f).frag = { h.frag with x := (h.write r words act sh f).frag.x } := by
  have hset : ∀ (tm : Team) (r : Nat) (x : VReg), ∃ v o, tm.setReg r x = { tm with v := v, o := o } := by
    intro tm r x; unfold Team.setReg; split <;> exact ⟨_, _, rfl⟩
  unfold Here.write
  split
  · exact ⟨rfl, rfl, rfl, rfl, rfl⟩
  · refine ⟨rfl, rfl, rfl, ?_, rfl⟩
    dsimp only
    split
    · split
      · obtain ⟨v, o, e⟩ := hset h.team (r + 0) ((h.destOld r 0).write h.team.e0 act (if r < 0xC0 then sh else .g) fun t => BitVec.ofNat 32 (f t / 2 ^ (32 * 0)))
        obtain ⟨v', o', e'⟩ := hset { h.team with v := v, o := o } (r + 1) ((h.destOld r 1).write h.team.e0 act (if r < 0xC0 then sh else .g) fun t => BitVec.ofNat 32 (f t / 2 ^ (32 * 1)))
        rw [e, e']
      · obtain ⟨v, o, e⟩ := hset h.team (r + 0) ((h.destOld r 0).write h.team.e0 act (if r < 0xC0 then sh else .g) fun t => BitVec.ofNat 32 (f t / 2 ^ (32 * 0)))
        rw [e]
    · rfl

theorem Here.writeFlags_rest (h : Here) (act : Mask) (f : Nat → Flags) :
    (h.writeFlags act f).group = h.group ∧ (h.writeFlags act f).frag = h.frag ∧ (h.writeFlags act f).clock = h.clock ∧
    (h.writeFlags act f).team = { h.team with cc := (h.writeFlags act f).team.cc } := by
  unfold Here.writeFlags
  split <;> exact ⟨rfl, rfl, rfl, rfl⟩

theorem modeLegal_ccw {m : BitVec 24} (h : modeLegal m = true) : modeCcw m ≤ 4 := by
  unfold modeLegal modeImageOk at h
  simp only [Bool.and_eq_true, decide_eq_true_eq] at h
  obtain ⟨⟨⟨⟨h0, h1⟩, h2⟩, h3⟩, h4⟩ := h
  unfold modeCcw bitsOf at *
  simp only [BitVec.truncate_eq_setWidth, BitVec.toNat_setWidth] at h1
  omega

end Sys2Proof.Machine
end

