-- ==== Sys2Proof/Laws/PerInstr.lean ====
section
/-!
SUPPORT. Facts about the instructions as syntax, one lemma for each constructor: a word has an encoding and an event has none.
-/
namespace Sys2Proof.Laws

/-- The encoder gives a word exactly for the instruction words (R203). -/
def Encoded.Statement (i : Instr) : Prop := (encode i).isSome = i.isWord

theorem Encoded.nop (y : Bool) : Encoded.Statement (.nop y) := rfl
theorem Encoded.bra (y : Bool) (cc : BitVec 2) (cond : BitVec 4) (off : BitVec 18) : Encoded.Statement (.bra y cc cond off) := rfl
theorem Encoded.jmp (y : Bool) (off : BitVec 24) : Encoded.Statement (.jmp y off) := rfl
theorem Encoded.jmpReg (y : Bool) (a : BitVec 8) : Encoded.Statement (.jmpReg y a) := rfl
theorem Encoded.call (y : Bool) (off : BitVec 24) : Encoded.Statement (.call y off) := rfl
theorem Encoded.callReg (y : Bool) (a : BitVec 8) : Encoded.Statement (.callReg y a) := rfl
theorem Encoded.ret (y : Bool) (a : BitVec 8) : Encoded.Statement (.ret y a) := rfl
theorem Encoded.conv (y : Bool) (off : BitVec 24) : Encoded.Statement (.conv y off) := rfl
theorem Encoded.fuse (y : Bool) : Encoded.Statement (.fuse y) := rfl
theorem Encoded.exit (y : Bool) : Encoded.Statement (.exit y) := rfl
theorem Encoded.bar (y : Bool) (n : BitVec 2) : Encoded.Statement (.bar y n) := rfl
theorem Encoded.acquire (y : Bool) : Encoded.Statement (.acquire y) := rfl
theorem Encoded.fork (y : Bool) (a b : BitVec 8) : Encoded.Statement (.fork y a b) := rfl
theorem Encoded.rdv (y : Bool) : Encoded.Statement (.rdv y) := rfl
theorem Encoded.setmode (y : Bool) (m : BitVec 23) : Encoded.Statement (.setmode y m) := rfl
theorem Encoded.getmode (y : Bool) (d : BitVec 8) : Encoded.Statement (.getmode y d) := rfl
theorem Encoded.iregion (y : Bool) : Encoded.Statement (.iregion y) := rfl
theorem Encoded.sleepuntil (y : Bool) (a : BitVec 8) : Encoded.Statement (.sleepuntil y a) := rfl
theorem Encoded.trap (y : Bool) (code : BitVec 24) : Encoded.Statement (.trap y code) := rfl
theorem Encoded.tretRetry (y : Bool) : Encoded.Statement (.tretRetry y) := rfl
theorem Encoded.tretSkip (y : Bool) : Encoded.Statement (.tretSkip y) := rfl
theorem Encoded.tretTerm (y : Bool) : Encoded.Statement (.tretTerm y) := rfl
theorem Encoded.movi (y : Bool) (d : BitVec 8) (i : BitVec 16) : Encoded.Statement (.movi y d i) := rfl
theorem Encoded.movih (y : Bool) (d : BitVec 8) (i : BitVec 16) : Encoded.Statement (.movih y d i) := rfl
theorem Encoded.addi (y : Bool) (d : BitVec 8) (i : BitVec 16) : Encoded.Statement (.addi y d i) := rfl
theorem Encoded.mov (y : Bool) (d a : BitVec 8) : Encoded.Statement (.mov y d a) := rfl
theorem Encoded.iadd (y : Bool) (d a b : BitVec 8) : Encoded.Statement (.iadd y d a b) := rfl
theorem Encoded.isub (y : Bool) (d a b : BitVec 8) : Encoded.Statement (.isub y d a b) := rfl
theorem Encoded.imul (y : Bool) (d a b : BitVec 8) : Encoded.Statement (.imul y d a b) := rfl
theorem Encoded.imulh (y : Bool) (d a b : BitVec 8) : Encoded.Statement (.imulh y d a b) := rfl
theorem Encoded.imad (y : Bool) (d a b : BitVec 8) : Encoded.Statement (.imad y d a b) := rfl
theorem Encoded.idiv (y : Bool) (d a b : BitVec 8) : Encoded.Statement (.idiv y d a b) := rfl
theorem Encoded.irem (y : Bool) (d a b : BitVec 8) : Encoded.Statement (.irem y d a b) := rfl
theorem Encoded.imin (y : Bool) (d a b : BitVec 8) : Encoded.Statement (.imin y d a b) := rfl
theorem Encoded.imax (y : Bool) (d a b : BitVec 8) : Encoded.Statement (.imax y d a b) := rfl
theorem Encoded.iabs (y : Bool) (d a : BitVec 8) : Encoded.Statement (.iabs y d a) := rfl
theorem Encoded.icmp (y : Bool) (a b : BitVec 8) : Encoded.Statement (.icmp y a b) := rfl
theorem Encoded.and (y : Bool) (d a b : BitVec 8) : Encoded.Statement (.and y d a b) := rfl
theorem Encoded.or (y : Bool) (d a b : BitVec 8) : Encoded.Statement (.or y d a b) := rfl
theorem Encoded.xor (y : Bool) (d a b : BitVec 8) : Encoded.Statement (.xor y d a b) := rfl
theorem Encoded.shl (y : Bool) (d a b : BitVec 8) : Encoded.Statement (.shl y d a b) := rfl
theorem Encoded.shr (y : Bool) (d a b : BitVec 8) : Encoded.Statement (.shr y d a b) := rfl
theorem Encoded.sar (y : Bool) (d a b : BitVec 8) : Encoded.Statement (.sar y d a b) := rfl
theorem Encoded.bfe (y : Bool) (d a b : BitVec 8) : Encoded.Statement (.bfe y d a b) := rfl
theorem Encoded.bfi (y : Bool) (d a b : BitVec 8) : Encoded.Statement (.bfi y d a b) := rfl
theorem Encoded.popc (y : Bool) (d a : BitVec 8) : Encoded.Statement (.popc y d a) := rfl
theorem Encoded.clz (y : Bool) (d a : BitVec 8) : Encoded.Statement (.clz y d a) := rfl
theorem Encoded.brev (y : Bool) (d a : BitVec 8) : Encoded.Statement (.brev y d a) := rfl
theorem Encoded.cvt (y : Bool) (d : BitVec 7) (a f : BitVec 8) : Encoded.Statement (.cvt y d a f) := rfl
theorem Encoded.cvtFrom (y : Bool) (d : BitVec 7) (a f : BitVec 8) : Encoded.Statement (.cvtFrom y d a f) := rfl
theorem Encoded.sel (y : Bool) (d a b : BitVec 8) : Encoded.Statement (.sel y d a b) := rfl
theorem Encoded.fadd (y : Bool) (d a b : BitVec 8) : Encoded.Statement (.fadd y d a b) := rfl
theorem Encoded.fsub (y : Bool) (d a b : BitVec 8) : Encoded.Statement (.fsub y d a b) := rfl
theorem Encoded.fmul (y : Bool) (d a b : BitVec 8) : Encoded.Statement (.fmul y d a b) := rfl
theorem Encoded.ffma (y : Bool) (d a b : BitVec 8) : Encoded.Statement (.ffma y d a b) := rfl
theorem Encoded.fmin (y : Bool) (d a b : BitVec 8) : Encoded.Statement (.fmin y d a b) := rfl
theorem Encoded.fmax (y : Bool) (d a b : BitVec 8) : Encoded.Statement (.fmax y d a b) := rfl
theorem Encoded.fcmp (y : Bool) (a b : BitVec 8) : Encoded.Statement (.fcmp y a b) := rfl
theorem Encoded.fsgn (y : Bool) (d a b : BitVec 8) : Encoded.Statement (.fsgn y d a b) := rfl
theorem Encoded.frcp (y : Bool) (d a : BitVec 8) : Encoded.Statement (.frcp y d a) := rfl
theorem Encoded.frsq (y : Bool) (d a : BitVec 8) : Encoded.Statement (.frsq y d a) := rfl
theorem Encoded.fsqrt (y : Bool) (d a : BitVec 8) : Encoded.Statement (.fsqrt y d a) := rfl
theorem Encoded.fdiv (y : Bool) (d a b : BitVec 8) : Encoded.Statement (.fdiv y d a b) := rfl
theorem Encoded.fexp2 (y : Bool) (d a : BitVec 8) : Encoded.Statement (.fexp2 y d a) := rfl
theorem Encoded.flog2 (y : Bool) (d a : BitVec 8) : Encoded.Statement (.flog2 y d a) := rfl
theorem Encoded.fsin (y : Bool) (d a : BitVec 8) : Encoded.Statement (.fsin y d a) := rfl
theorem Encoded.fcos (y : Bool) (d a : BitVec 8) : Encoded.Statement (.fcos y d a) := rfl
theorem Encoded.fclass (y : Bool) (d a : BitVec 8) : Encoded.Statement (.fclass y d a) := rfl
theorem Encoded.frnd (y : Bool) (d a k : BitVec 8) : Encoded.Statement (.frnd y d a k) := rfl
theorem Encoded.rfal (y : Bool) (d a : BitVec 8) : Encoded.Statement (.rfal y d a) := rfl
theorem Encoded.ballot (y : Bool) (d a : BitVec 8) : Encoded.Statement (.ballot y d a) := rfl
theorem Encoded.vote (y : Bool) (d a k : BitVec 8) : Encoded.Statement (.vote y d a k) := rfl
theorem Encoded.shfl (y : Bool) (d a b : BitVec 8) : Encoded.Statement (.shfl y d a b) := rfl
theorem Encoded.xshuf (y : Bool) (d a b : BitVec 8) : Encoded.Statement (.xshuf y d a b) := rfl
theorem Encoded.redu (y : Bool) (d a : BitVec 8) (k : BitVec 4) : Encoded.Statement (.redu y d a k) := rfl
theorem Encoded.scan (y : Bool) (d a : BitVec 8) (e : BitVec 1) (k : BitVec 4) : Encoded.Statement (.scan y d a e k) := rfl
theorem Encoded.shape (y : Bool) (d a : BitVec 8) : Encoded.Statement (.shape y d a) := rfl
theorem Encoded.widf (y : Bool) (d : BitVec 8) (f : BitVec 3) : Encoded.Statement (.widf y d f) := rfl
theorem Encoded.widf64 (y : Bool) (d : BitVec 8) (f : BitVec 3) : Encoded.Statement (.widf64 y d f) := rfl
theorem Encoded.rdidx (y : Bool) (d a : BitVec 8) : Encoded.Statement (.rdidx y d a) := rfl
theorem Encoded.wridx (y : Bool) (d a : BitVec 8) : Encoded.Statement (.wridx y d a) := rfl
theorem Encoded.ld (y : Bool) (d : BitVec 8) (b k : BitVec 4) (i : BitVec 8) : Encoded.Statement (.ld y d b k i) := rfl
theorem Encoded.st (y : Bool) (d : BitVec 8) (b k : BitVec 4) (i : BitVec 8) : Encoded.Statement (.st y d b k i) := rfl
theorem Encoded.ldv (y : Bool) (d : BitVec 8) (b k : BitVec 4) (i : BitVec 8) : Encoded.Statement (.ldv y d b k i) := rfl
theorem Encoded.stv (y : Bool) (d : BitVec 8) (b k : BitVec 4) (i : BitVec 8) : Encoded.Statement (.stv y d b k i) := rfl
theorem Encoded.lds (y : Bool) (d : BitVec 8) (b k : BitVec 4) (i : BitVec 8) : Encoded.Statement (.lds y d b k i) := rfl
theorem Encoded.sts (y : Bool) (d : BitVec 8) (b k : BitVec 4) (i : BitVec 8) : Encoded.Statement (.sts y d b k i) := rfl
theorem Encoded.atom (y : Bool) (d : BitVec 8) (b k : BitVec 4) (i : BitVec 8) : Encoded.Statement (.atom y d b k i) := rfl
theorem Encoded.atoms (y : Bool) (d : BitVec 8) (b k : BitVec 4) (i : BitVec 8) : Encoded.Statement (.atoms y d b k i) := rfl
theorem Encoded.fence (y : Bool) (wack : BitVec 1) (kind : BitVec 2) (scope : BitVec 3) : Encoded.Statement (.fence y wack kind scope) := rfl
theorem Encoded.ldrb (y : Bool) (d b k : BitVec 4) (i : BitVec 8) : Encoded.Statement (.ldrb y d b k i) := rfl
theorem Encoded.mkrb (y : Bool) (d : BitVec 4) (a b : BitVec 8) : Encoded.Statement (.mkrb y d a b) := rfl
theorem Encoded.prfm (y : Bool) (b k : BitVec 4) (i : BitVec 8) : Encoded.Statement (.prfm y b k i) := rfl
theorem Encoded.qclaim (y : Bool) (d : BitVec 8) (b : BitVec 4) : Encoded.Statement (.qclaim y d b) := rfl
theorem Encoded.qwrite (y : Bool) (d : BitVec 8) (b k : BitVec 4) (i : BitVec 8) : Encoded.Statement (.qwrite y d b k i) := rfl
theorem Encoded.qpost (y : Bool) (b : BitVec 4) (i : BitVec 8) : Encoded.Statement (.qpost y b i) := rfl
theorem Encoded.awaitf (y : Bool) (b : BitVec 4) (i : BitVec 8) : Encoded.Statement (.awaitf y b i) := rfl
theorem Encoded.awaitfWindow (y : Bool) (b : BitVec 4) (i : BitVec 8) : Encoded.Statement (.awaitfWindow y b i) := rfl
theorem Encoded.relslot (y : Bool) (b : BitVec 4) (i : BitVec 8) : Encoded.Statement (.relslot y b i) := rfl
theorem Encoded.relslotWindow (y : Bool) (b : BitVec 4) (i : BitVec 8) : Encoded.Statement (.relslotWindow y b i) := rfl
theorem Encoded.seal (y : Bool) (d a : BitVec 8) : Encoded.Statement (.seal y d a) := rfl
theorem Encoded.sealRel (y : Bool) (a : BitVec 8) : Encoded.Statement (.sealRel y a) := rfl
theorem Encoded.publish (y : Bool) (b : BitVec 4) : Encoded.Statement (.publish y b) := rfl
theorem Encoded.rdprom (y : Bool) (d : BitVec 8) (b : BitVec 4) (i : BitVec 8) : Encoded.Statement (.rdprom y d b i) := rfl
theorem Encoded.rdpromWindow (y : Bool) (d : BitVec 8) (b : BitVec 4) (i : BitVec 8) : Encoded.Statement (.rdpromWindow y d b i) := rfl
theorem Encoded.mainit (y : Bool) (c : BitVec 2) (t : BitVec 3) (w : BitVec 12) : Encoded.Statement (.mainit y c t w) := rfl
theorem Encoded.mainitAuto (y : Bool) (c : BitVec 2) (t : BitVec 3) (h : BitVec 5) : Encoded.Statement (.mainitAuto y c t h) := rfl
theorem Encoded.mma (y : Bool) (t : BitVec 3) : Encoded.Statement (.mma y t) := rfl
theorem Encoded.mresolve (y : Bool) (t : BitVec 3) : Encoded.Statement (.mresolve y t) := rfl
theorem Encoded.mdrain (y : Bool) (t : BitVec 3) (b k : BitVec 4) (i : BitVec 8) : Encoded.Statement (.mdrain y t b k i) := rfl
theorem Encoded.mdrainRaw (y : Bool) (t : BitVec 3) (b k : BitVec 4) (i : BitVec 8) : Encoded.Statement (.mdrainRaw y t b k i) := rfl
theorem Encoded.mdrainp (y : Bool) (t u : BitVec 3) : Encoded.Statement (.mdrainp y t u) := rfl
theorem Encoded.msave (y : Bool) (b : BitVec 4) (t : BitVec 3) (a : BitVec 8) : Encoded.Statement (.msave y b t a) := rfl
theorem Encoded.msaveWindow (y : Bool) (b : BitVec 4) (t : BitVec 3) (a : BitVec 8) : Encoded.Statement (.msaveWindow y b t a) := rfl
theorem Encoded.mload (y : Bool) (b : BitVec 4) (t : BitVec 3) (a c : BitVec 8) : Encoded.Statement (.mload y b t a c) := rfl
theorem Encoded.mloadWindow (y : Bool) (b : BitVec 4) (t : BitVec 3) (a c : BitVec 8) : Encoded.Statement (.mloadWindow y b t a c) := rfl
theorem Encoded.mcmp (y : Bool) (d : BitVec 8) (t : BitVec 3) (b : BitVec 8) : Encoded.Statement (.mcmp y d t b) := rfl
theorem Encoded.mdrop (y : Bool) (t : BitVec 3) : Encoded.Statement (.mdrop y t) := rfl
theorem Encoded.mdropFa (y : Bool) (n : BitVec 16) : Encoded.Statement (.mdropFa y n) := rfl
theorem Encoded.mdropFb (y : Bool) (n : BitVec 16) : Encoded.Statement (.mdropFb y n) := rfl
theorem Encoded.mstat (y : Bool) (d : BitVec 8) (t : BitVec 3) : Encoded.Statement (.mstat y d t) := rfl
theorem Encoded.mwait (y : Bool) (t : BitVec 3) (n : BitVec 8) : Encoded.Statement (.mwait y t n) := rfl
theorem Encoded.sysr (y : Bool) (d : BitVec 8) (n : BitVec 16) : Encoded.Statement (.sysr y d n) := rfl
theorem Encoded.sysw (y : Bool) (d : BitVec 8) (n : BitVec 16) : Encoded.Statement (.sysw y d n) := rfl
theorem Encoded.ptw (y : Bool) (a b : BitVec 8) : Encoded.Statement (.ptw y a b) := rfl
theorem Encoded.invlPage (y : Bool) (a : BitVec 8) : Encoded.Statement (.invlPage y a) := rfl
theorem Encoded.invlAll (y : Bool) (a : BitVec 8) : Encoded.Statement (.invlAll y a) := rfl
theorem Encoded.replace (y : Bool) (a : BitVec 8) (w : BitVec 2) : Encoded.Statement (.replace y a w) := rfl
theorem Encoded.dcflush (y : Bool) (b k : BitVec 4) (i : BitVec 8) : Encoded.Statement (.dcflush y b k i) := rfl
theorem Encoded.unassignedOpcode (w : Word) : Encoded.Statement (.unassignedOpcode w) := rfl
theorem Encoded.longLatencyReturn (a : AgentId) (op : Nat) : Encoded.Statement (.longLatencyReturn a op) := rfl
theorem Encoded.trapDelivery (a : AgentId) : Encoded.Statement (.trapDelivery a) := rfl
theorem Encoded.adviseDelivery (a : AgentId) : Encoded.Statement (.adviseDelivery a) := rfl
theorem Encoded.sleepExpiry (a : AgentId) : Encoded.Statement (.sleepExpiry a) := rfl
theorem Encoded.forkGrant (cluster : Nat) : Encoded.Statement (.forkGrant cluster) := rfl
theorem Encoded.acquireGrant (gid tid : Nat) : Encoded.Statement (.acquireGrant gid tid) := rfl
theorem Encoded.launchPacket (q : QueueId) : Encoded.Statement (.launchPacket q) := rfl
theorem Encoded.waitConditionCheck (die n : Nat) : Encoded.Statement (.waitConditionCheck die n) := rfl
theorem Encoded.groupAdmit (launch index : Nat) : Encoded.Statement (.groupAdmit launch index) := rfl
theorem Encoded.poolEvent : Encoded.Statement (.poolEvent) := rfl
theorem Encoded.quantumExpiry (vd : Nat) : Encoded.Statement (.quantumExpiry vd) := rfl
theorem Encoded.preemptRequest (cluster vd : Nat) (quiesce : Bool) : Encoded.Statement (.preemptRequest cluster vd quiesce) := rfl
theorem Encoded.drainDeadline (cluster : Nat) : Encoded.Statement (.drainDeadline cluster) := rfl
theorem Encoded.groupRestore (gid cluster : Nat) : Encoded.Statement (.groupRestore gid cluster) := rfl
theorem Encoded.groupRestart (gid cluster : Nat) : Encoded.Statement (.groupRestart gid cluster) := rfl
theorem Encoded.queueSlotTake (q : QueueId) : Encoded.Statement (.queueSlotTake q) := rfl
theorem Encoded.copy (q : QueueId) (n : Nat) : Encoded.Statement (.copy q n) := rfl
theorem Encoded.filla (q : QueueId) (n : Nat) : Encoded.Statement (.filla q n) := rfl
theorem Encoded.fillb (q : QueueId) (n : Nat) : Encoded.Statement (.fillb q n) := rfl
theorem Encoded.fifoPanelPush (q : QueueId) : Encoded.Statement (.fifoPanelPush q) := rfl
theorem Encoded.mcast (q : QueueId) (n : Nat) : Encoded.Statement (.mcast q n) := rfl
theorem Encoded.ckpt (q : QueueId) (n : Nat) : Encoded.Statement (.ckpt q n) := rfl
theorem Encoded.mark (q : QueueId) : Encoded.Statement (.mark q) := rfl
theorem Encoded.packetComplete (q : QueueId) : Encoded.Statement (.packetComplete q) := rfl
theorem Encoded.matrixCommandPerform (gid : Nat) : Encoded.Statement (.matrixCommandPerform gid) := rfl
theorem Encoded.peerArrival (gid : Nat) : Encoded.Statement (.peerArrival gid) := rfl
theorem Encoded.lineRequest (id : Nat) : Encoded.Statement (.lineRequest id) := rfl
theorem Encoded.landingArrival (id : Nat) : Encoded.Statement (.landingArrival id) := rfl
theorem Encoded.writeBack (line : Nat) (evict : Bool) : Encoded.Statement (.writeBack line evict) := rfl
theorem Encoded.checkDelta (n : Nat) : Encoded.Statement (.checkDelta n) := rfl
theorem Encoded.ferryStep (region : Nat) : Encoded.Statement (.ferryStep region) := rfl
theorem Encoded.homeHandoff (line : Nat) : Encoded.Statement (.homeHandoff line) := rfl
theorem Encoded.scrubLine (line : Nat) : Encoded.Statement (.scrubLine line) := rfl
theorem Encoded.errorCounterHalving : Encoded.Statement (.errorCounterHalving) := rfl
theorem Encoded.hbmRetryReissue (id : Nat) : Encoded.Statement (.hbmRetryReissue id) := rfl
theorem Encoded.alert (channel : Nat) (recurs : Bool) : Encoded.Statement (.alert channel recurs) := rfl
theorem Encoded.unitFailure (u : MemUnit) : Encoded.Statement (.unitFailure u) := rfl
theorem Encoded.checkRecompute (stripe : Nat) : Encoded.Statement (.checkRecompute stripe) := rfl
theorem Encoded.clearSweep (unit n : Nat) : Encoded.Statement (.clearSweep unit n) := rfl
theorem Encoded.epochTick : Encoded.Statement (.epochTick) := rfl
theorem Encoded.prqrAdvance (vd : Nat) (value : Word) : Encoded.Statement (.prqrAdvance vd value) := rfl
theorem Encoded.pageReply (vd : Nat) : Encoded.Statement (.pageReply vd) := rfl
theorem Encoded.fsrootWrite (vd n : Nat) (value : Word) : Encoded.Statement (.fsrootWrite vd n value) := rfl
theorem Encoded.rangeUpdate (vd : Nat) (cmd : Word) : Encoded.Statement (.rangeUpdate vd cmd) := rfl
theorem Encoded.rangeUpdateDone (vd : Nat) : Encoded.Statement (.rangeUpdateDone vd) := rfl
theorem Encoded.publishEntryUpdate (vd : Nat) (cmd : Word) : Encoded.Statement (.publishEntryUpdate vd cmd) := rfl
theorem Encoded.clqownWrite (cluster : Nat) (value : Word) : Encoded.Statement (.clqownWrite cluster value) := rfl
theorem Encoded.clspbWrite (cluster : Nat) (value : Word) : Encoded.Statement (.clspbWrite cluster value) := rfl
theorem Encoded.vdpolWrite (vd : Nat) (value : Word) (secure : Bool) : Encoded.Statement (.vdpolWrite vd value secure) := rfl
theorem Encoded.vdl2Write (vd : Nat) (value : Word) : Encoded.Statement (.vdl2Write vd value) := rfl
theorem Encoded.l2ShareWalkDone (vd : Nat) : Encoded.Statement (.l2ShareWalkDone vd) := rfl
theorem Encoded.tokenRefill (vd us : Nat) : Encoded.Statement (.tokenRefill vd us) := rfl
theorem Encoded.vdReset (vd : Nat) (value : Word) : Encoded.Statement (.vdReset vd value) := rfl
theorem Encoded.vdResetDone (vd : Nat) : Encoded.Statement (.vdResetDone vd) := rfl
theorem Encoded.vdCreate (vd : Nat) (p : VdParams) : Encoded.Statement (.vdCreate vd p) := rfl
theorem Encoded.quiesceRequest (vd : Nat) : Encoded.Statement (.quiesceRequest vd) := rfl
theorem Encoded.quiesceRelease (vd : Nat) : Encoded.Statement (.quiesceRelease vd) := rfl
theorem Encoded.keyInstall (cmd : Word) (secure : Bool) : Encoded.Statement (.keyInstall cmd secure) := rfl
theorem Encoded.keyDestroy (cmd : Word) (secure : Bool) : Encoded.Statement (.keyDestroy cmd secure) := rfl
theorem Encoded.retireBank (secure : Bool) : Encoded.Statement (.retireBank secure) := rfl
theorem Encoded.retireChannel (secure : Bool) : Encoded.Statement (.retireChannel secure) := rfl
theorem Encoded.retireStack (secure : Bool) : Encoded.Statement (.retireStack secure) := rfl
theorem Encoded.repairRow (secure : Bool) : Encoded.Statement (.repairRow secure) := rfl
theorem Encoded.clear (secure : Bool) : Encoded.Statement (.clear secure) := rfl
theorem Encoded.retireRegion (secure : Bool) : Encoded.Statement (.retireRegion secure) := rfl
theorem Encoded.returnStack (secure : Bool) : Encoded.Statement (.returnStack secure) := rfl
theorem Encoded.itent0Read : Encoded.Statement (.itent0Read) := rfl
theorem Encoded.attestation (die : Nat) (o : AttestOutcome) : Encoded.Statement (.attestation die o) := rfl
theorem Encoded.attestationTimeout (die : Nat) : Encoded.Statement (.attestationTimeout die) := rfl
theorem Encoded.dieReset (value : Word) : Encoded.Statement (.dieReset value) := rfl
theorem Encoded.dieResetComplete (die : Nat) : Encoded.Statement (.dieResetComplete die) := rfl
theorem Encoded.dieSilence (die : Nat) : Encoded.Statement (.dieSilence die) := rfl
theorem Encoded.keyRollover (link dir : Nat) : Encoded.Statement (.keyRollover link dir) := rfl
theorem Encoded.oldKeyRetire (link dir : Nat) : Encoded.Statement (.oldKeyRetire link dir) := rfl
theorem Encoded.flitAuthFailure (link dir : Nat) : Encoded.Statement (.flitAuthFailure link dir) := rfl
theorem Encoded.wlogClear (value : Word) (secure : Bool) : Encoded.Statement (.wlogClear value secure) := rfl
theorem Encoded.wlogstatRead (secure : Bool) : Encoded.Statement (.wlogstatRead secure) := rfl
theorem Encoded.powerSample (watts : Nat) : Encoded.Statement (.powerSample watts) := rfl
theorem Encoded.thermalEvent (die celsius : Nat) : Encoded.Statement (.thermalEvent die celsius) := rfl
theorem Encoded.moor (vd : Nat) (value : Word) : Encoded.Statement (.moor vd value) := rfl
theorem Encoded.moorComplete (vd : Nat) : Encoded.Statement (.moorComplete vd) := rfl
theorem Encoded.wake (vd : Nat) (value : Word) : Encoded.Statement (.wake vd value) := rfl
theorem Encoded.wakeComplete (vd : Nat) : Encoded.Statement (.wakeComplete vd) := rfl
theorem Encoded.selfRefreshExit (channel : Nat) : Encoded.Statement (.selfRefreshExit channel) := rfl
theorem Encoded.coldStart (failing : List Nat) : Encoded.Statement (.coldStart failing) := rfl
theorem Encoded.warmStart (failing : List Nat) (completes : Bool) : Encoded.Statement (.warmStart failing completes) := rfl
theorem Encoded.companionAccess (dest : Reach) (addr : Nat) (what : HostAccess) : Encoded.Statement (.companionAccess dest addr what) := rfl
theorem Encoded.peerInboundAppend (vd desc : Nat) (words : List Word) : Encoded.Statement (.peerInboundAppend vd desc words) := rfl
theorem Encoded.registerWrite (r : HReg) (vd : Nat) (value : Word) (secure : Bool) : Encoded.Statement (.registerWrite r vd value secure) := rfl
theorem Encoded.promisePassed (a : AgentId) : Encoded.Statement (.promisePassed a) := rfl
theorem Encoded.writeAcknowledgement (a : AgentId) : Encoded.Statement (.writeAcknowledgement a) := rfl

end Sys2Proof.Laws
end

