-- ==== Sys2Proof/Tests/Slice0.lean ====
section
/-!
SUPPORT. Small tests: words written out from the encodings of 09, ill-formed terms, one-step results computed by hand from the
rules, and for each statement of Obligations a concrete case that meets its hypotheses.
-/
namespace Sys2Proof.Tests
open Sys2Proof.Machine
-- one theorem after another: many kernel evaluations at once would ask for many threads
set_option Elab.async false

/-! ### Encodings, written out bit by bit from R203 to R218, and the worked words of 10 to 16 -/

/-- Opcode 1C, D = 5, A = 6, B = 7. -/
theorem test_decode_iadd : (decode 0b00011100000001010000011000000111#32).toOption = some (.iadd false 5#8 6#8 7#8) := by decide
/-- Y = 1, opcode 51, D = 4, B = 1, K = 3, A = D5. -/
theorem test_decode_ld : (decode 0b11010001000001000001001111010101#32).toOption = some (.ld true 4#8 1#4 3#4 0xD5#8) := by decide
/-- Opcode 02, CC = 0, COND = 3, OFF18 = -3. -/
theorem test_decode_bra : (decode 0b00000010000011111111111111111101#32).toOption = some (.bra false 0#2 3#4 0x3FFFD#18) := by decide
/-- Opcode 03 in the register form of R206, A = v4. -/
theorem test_decode_jmp_register : (decode 0b00000011100000000000000000000100#32).toOption = some (.jmpReg false 4#8) := by decide
theorem test_decode_cvt : (decode 0x32020358#32).toOption = some (.cvt false 2#7 3#8 0x58#8) := by decide
theorem test_decode_cvt_from : (decode 0x32820358#32).toOption = some (.cvtFrom false 2#7 3#8 0x58#8) := by decide
theorem test_decode_atom : (decode 0x57062708#32).toOption = some (.atom false 6#8 2#4 7#4 8#8) := by decide
theorem test_decode_setmode : (decode 0x0D140498#32).toOption = some (.setmode false 0x140498#23) := by decide
theorem test_decode_fence : (decode 0x5900002D#32).toOption = some (.fence false 1#1 1#2 5#3) := by decide
theorem test_decode_seal : (decode 0x62041400#32).toOption = some (.seal false 4#8 20#8) ∧ (decode 0xE2081600#32).toOption = some (.seal true 8#8 22#8) := by decide
theorem test_decode_mainit : (decode 0x65000FF8#32).toOption = some (.mainit false 0#2 0#3 0xFF8#12) ∧
    (decode 0x6520000A#32).toOption = some (.mainitAuto false 0#2 0#3 10#5) ∧ (decode 0x65320004#32).toOption = some (.mainitAuto false 2#2 2#3 4#5) := by decide
theorem test_decode_mdrain : (decode 0x68002004#32).toOption = some (.mdrain false 0#3 2#4 0#4 4#8) := by decide
theorem test_decode_msave : (decode 0x6A130500#32).toOption = some (.msave false 2#4 3#3 5#8) := by decide
theorem test_decode_mload : (decode 0x6B8B0506#32).toOption = some (.mloadWindow false 1#4 3#3 5#8 6#8) := by decide
theorem test_decode_mcmp : (decode 0x6C020001#32).toOption = some (.mcmp false 2#8 0#3 1#8) := by decide
theorem test_decode_mwait : (decode 0x6F000001#32).toOption = some (.mwait false 0#3 1#8) := by decide

/-- Words with a set MBZ bit or a reserved literal decode to no instruction (R205, R206, R214, R217). -/
theorem test_decode_refuses : decode 0x25050601#32 = .error .mbz ∧ decode 0x6F000000#32 = .error .reservedLiteral ∧
    decode 0x3205037F#32 = .error .reservedLiteral ∧ decode 0x06800004#32 = .error .reservedLiteral := ⟨rfl, rfl, rfl, rfl⟩
theorem test_encode_ld : encode (.ld true 4#8 1#4 3#4 0xD5#8) = some 0b11010001000001000001001111010101#32 := by decide
theorem test_encode_fence : encode (.fence false 1#1 1#2 5#3) = some 0x5900002D#32 := by decide

/-! ### Ill-formed terms: one for each check of a literal and of a register field -/

def illFormed : List Instr :=
  [ .jmp false 0x800001#24, .setmode false 0x00000C#23, .cvt false 2#7 3#8 0x7F#8, .frnd false 2#8 3#8 6#8, .vote false 2#8 3#8 3#8,
    .redu false 2#8 3#8 6#4, .widf false 2#8 6#3, .atom false 2#8 0#4 11#4 3#8, .fence false 0#1 0#2 7#3, .qwrite false 4#8 0#4 4#4 3#8,
    .mainit false 3#2 0#3 0#12, .mainit false 2#2 1#3 0#12, .mdropFa false 0#16, .mdropFb false 17#16, .mwait false 0#3 0#8,
    .unassignedOpcode 0x01000000#32, .jmpReg false 5#8, .fork false 4#8 0xD9#8, .sleepuntil false 0xD9#8, .movi false 0xD1#8 0#16,
    .widf64 false 3#8 0#3, .mov false 2#8 0xD9#8, .iadd false 0xD5#8 2#8 3#8, .idiv false 0xD0#8 2#8 3#8, .icmp false 0xDA#8 2#8,
    .frcp false 0xD0#8 2#8, .ld false 0xD0#8 0#4 0#4 2#8, .ldv false 6#8 0#4 0#4 2#8, .atoms false 3#8 0#4 0#4 2#8, .qclaim false 0xD0#8 0#4,
    .seal false 2#8 3#8, .mload false 0#4 0#3 0xD9#8 2#8, .mcmp false 0xD0#8 0#3 2#8, .sysw false 0xD9#8 0#16 ]
theorem test_wf_refuses : illFormed.all (fun i => !i.wf) = true := by decide
theorem test_wf_accepts : (Instr.ld true 4#8 1#4 3#4 0xD5#8).wf = true ∧ (Instr.mainit false 2#2 2#3 0#12).wf = true := by decide

/-! ### Small states -/

/-- The state that an instruction or an event leaves. -/
def run (i : Instr) (s : State) : State := match exec i s with | .next t => t | _ => s
/-- The state that a step leaves. -/
def stepped (s : State) : State := match step s with | .next t => t | _ => s
/-- The same, with the issuing fragment, its team and its group changed. -/
def edit (f : Here → Here) (s : State) : State := match s.here with | some h => s.put (f h) | none => s

/-- A started package with one fragment of a one-lane team, and one with a control-core context (log 4). -/
def one : State := State.reset.placed 0
def core : State := State.reset.placed 0x65000000
/-- A team of two lanes. -/
def two : State := edit (fun h => { h with
  team := { newTeam 0 0 0 0 2 64 32 16 1 with frags := h.team.frags }, frag := newFrag 0 2 placedAt 1 0 }) one

def setV (r : Nat) (x : Word) (s : State) : State :=
  edit (fun h => { h with team := h.team.setReg r { val := .u x, poison := 0#1024 } }) s
def setLanes (r : Nat) (x : List Word) (s : State) : State :=
  edit (fun h => { h with team := h.team.setReg r { val := .g x, poison := 0#1024 } }) s
def setMode (m : BitVec 24) (s : State) : State := edit (fun h => { h with frag := { h.frag with mode := m } }) s
def setB (n : Nat) (r : Nat) (s : State) : State :=
  edit (fun h => { h with team := { h.team with b := h.team.b.set n (BitVec.ofNat 128 r) } }) s
def setPriv (s : State) : State := edit (fun h => { h with frag := { h.frag with priv := true } }) s
def setTrapvec (a : Nat) (s : State) : State := { s with launches := s.launches.map fun l => { l with trapvec := a } }

/-- The state meets the invariants, and the issuing fragment a condition. -/
def meets (s : State) (p : Here → Bool) : Bool := s.shaped && s.legal && s.canonical && s.numbered && s.here.any p
/-- What lane k of the issuing team reads in a register, and its flags in a condition code. -/
def reads (s : State) (r k : Nat) : Option Nat := s.here.map fun h => (h.read r k).toNat
def flags (s : State) (c : Nat) : Option Nat := s.here.map fun h => (h.team.ccOf c 0).bits

/-! ### Results of one instruction, by hand from the rules -/

/-- CCW = 1 in bits [12:10] writes cc0; N Z C V are 8, 4, 2, 1. -/
def cc0 : BitVec 24 := 0x400#24

/-- 0x7FFFFFFF + 1 wraps to 0x80000000 with N and V (R258). -/
theorem test_iadd_overflow : let s := run (.iadd false 5#8 6#8 7#8) (setMode cc0 (setV 6 0x7FFFFFFF#32 (setV 7 1#32 one)))
    reads s 5 0 = some 0x80000000 ∧ flags s 0 = some 9 := by decide +kernel
/-- The same under SAT stays at the greatest value, with V (R254). -/
theorem test_iadd_saturates : let s := run (.iadd false 5#8 6#8 7#8) (setMode 0x10400#24 (setV 6 0x7FFFFFFF#32 (setV 7 1#32 one)))
    reads s 5 0 = some 0x7FFFFFFF ∧ flags s 0 = some 1 := by decide +kernel
/-- 3 - 5 = -2: N, and no C because 3 is below 5 (R258). -/
theorem test_isub_borrow : let s := run (.isub false 5#8 6#8 7#8) (setMode cc0 (setV 6 3#32 (setV 7 5#32 one)))
    reads s 5 0 = some 0xFFFFFFFE ∧ flags s 0 = some 8 := by decide +kernel
/-- The destination is an operand: 2 * 3 + 4 (R259). -/
theorem test_imad_reads_its_destination : reads (run (.imad false 5#8 6#8 7#8) (setV 5 4#32 (setV 6 2#32 (setV 7 3#32 one)))) 5 0 = some 10 := by
  decide +kernel
/-- The high half of -1 * 2 is all ones (R259). -/
theorem test_imulh_signed : reads (run (.imulh false 5#8 6#8 7#8) (setV 6 0xFFFFFFFF#32 (setV 7 2#32 one))) 5 0 = some 0xFFFFFFFF := by
  decide +kernel
/-- An immediate is sign-extended (R257). -/
theorem test_movi_sign : reads (run (.movi false 5#8 0xFFFF#16) one) 5 0 = some 0xFFFFFFFF := by decide +kernel
/-- MOVIH keeps the low half (R257). -/
theorem test_movih_keeps_low : reads (run (.movih false 5#8 0xABCD#16) (setV 5 0x12345678#32 one)) 5 0 = some 0xABCD5678 := by decide +kernel
/-- An arithmetic shift keeps the sign (R261). -/
theorem test_sar : reads (run (.sar false 5#8 6#8 7#8) (setV 6 0x80000000#32 (setV 7 4#32 one))) 5 0 = some 0xF8000000 := by decide +kernel
/-- A compare writes no register: 2 - 2 gives Z and C (R258). -/
theorem test_icmp : let s := run (.icmp false 6#8 7#8) (setMode cc0 (setV 6 2#32 (setV 7 2#32 one)))
    flags s 0 = some 6 ∧ reads s 6 0 = some 2 := by decide +kernel
/-- 1.5 + 2.25 = 3.75 in fp32 (R277). -/
theorem test_fadd : reads (run (.fadd false 5#8 6#8 7#8) (setMode 8#24 (setV 6 0x3FC00000#32 (setV 7 0x40100000#32 one)))) 5 0 = some 0x40700000 := by
  decide +kernel
/-- The integer 3 converts to fp32 3.0: code 8 (R214, R267). -/
theorem test_cvt : reads (run (.cvt false 5#7 6#8 8#8) (setV 6 3#32 one)) 5 0 = some 0x40400000 := by decide +kernel
/-- A guarded lane keeps what it held: GCC 0, GCOND 1 (Z) with Z clear (R64, R75). -/
theorem test_guard : reads (run (.movi false 5#8 9#16) (setMode 0x40#24 (setV 5 7#32 one))) 5 0 = some 7 := by decide +kernel
/-- The switch marker parks the fragment and empties its last-result file (R61, R83). -/
theorem test_marker : ((run (.movi true 5#8 9#16) one).here.map fun h => (decide (h.frag.park = .marker), h.frag.x.length)) = some (true, 0) := by
  decide +kernel
/-- A zero divisor traps DIVZ, 20H (R260); TRAP raises SWTRAP, 40H (R248). -/
theorem test_idiv_zero : ((run (.idiv false 5#8 6#8 7#8) (setV 6 9#32 one)).here.map fun h => h.team.faults.map (·.cause)) = some [0x20] := by
  decide +kernel
theorem test_trap : ((run (.trap false 7#24) one).here.map fun h => h.team.faults.map fun p => (p.cause, p.detail.toNat)) = some [(0x40, 7)] := by
  decide +kernel
/-- A write of v64 under V = 64 traps REGBOUND, 03H, with its number (R88, R354). -/
theorem test_regbound : ((run (.movi false 64#8 0#16) one).here.map fun h => h.team.faults.map fun p => (p.cause, p.detail.toNat)) = some [(3, 64)] := by
  decide +kernel
/-- BRA with COND 0 goes to pc + 4 * OFF18 (R233). -/
theorem test_bra : ((run (.bra false 0#2 0#4 0x3FFFF#18) one).here.map fun h => h.frag.pc.toNat) = some 0xFFFC := by decide +kernel

/-! ### Witnesses: encoding, steps, integers and floats -/

theorem witness_decode : (Instr.iadd false 5#8 6#8 0xD5#8).isWord = true ∧ (Instr.iadd false 5#8 6#8 0xD5#8).wf = true ∧
    (decode 0x1C0506D5#32).toOption = some (.iadd false 5#8 6#8 0xD5#8) := by decide
/-- A step from a state that meets every invariant: the cold start, and an instruction. -/
theorem witness_steps : (∃ t, step State.reset = .next t) ∧ meets one (fun _ => true) = true := ⟨⟨_, rfl⟩, by decide +kernel⟩
/-- A turn of the placed fragment: iadd v5, v6, v7 is fetched, and so is a word that is no instruction. -/
theorem witness_issue : [0x1C050607, 0x25050601].all (fun n =>
    let s := State.reset.placed n
    let b := State.chosen { s with agenda := [] } (placedAgent false)
    let t : State := { s with agenda := [], cur := b, clock := s.clock + 1 }
    s.agenda == [.issue (placedAgent false)] && s.epochDue == false && t.here.any t.ready && (t.passOver b).here.any fun h =>
      (t.passOver b).fetch h.group.cluster h.group.vd h.frag.pc.toNat == .word (BitVec.ofNat 32 n)) = true ∧
    (decode 0x1C050607#32).toOption.isSome = true ∧ (decode 0x25050601#32).toOption.isSome = false := by decide +kernel

/-- The checks of an instruction pass, in a state that meets the invariants. -/
def passes (s : State) (u : Here → Uses) : Bool := meets s fun h => (h.check (u h)).isNone
/-- An instruction of the integer table passes its checks. -/
def aluPasses (i : Instr) (s : State) : Bool := (aluForm i).any fun F => passes s (F.uses i)
theorem witness_integer : [Instr.addi false 5#8 9#16, .iadd false 5#8 6#8 7#8, .shl true 0xD0#8 6#8 0xD5#8, .clz false 0xCF#8 6#8].all
    (fun i => aluPasses i two) = true ∧ aluPasses (.imul false 4#8 6#8 8#8) (setMode 2#24 two) = true := by decide +kernel
theorem witness_integer_values : 32 ∈ [8, 16, 32, 64] ∧ 0xFFFFFFFF < 2 ^ 32 ∧ (intRange (.int true 16)).1 ≤ intOf true 8 0x80 ∧
    intOf true 8 0x80 ≤ (intRange (.int true 16)).2 := by decide
theorem witness_compares :
    passes two (fun h => { word := 0#32, illop := !h.format.isInt, reads := [(5, h.words), (6, h.words)], ccWrite := h.ccw, act := h.active }) = true ∧
    [0x8#24, 0x408#24].all (fun m => passes (setMode m two)
      (fun h => { word := 0#32, illop := h.format.isInt, reads := [(5, h.words), (6, h.words)], ccWrite := h.ccw, act := h.active }) &&
      meets (setMode m two) fun h => (List.range 2).all fun k => enabledFlags h.team.fpctl (snanFlag [h.fnum 5#8 k, h.fnum 6#8 k]) == 0#5) = true := by
  decide +kernel
theorem witness_moves : [Instr.movi false 5#8 9#16, .movih true 5#8 9#16, .mov false 0xD0#8 6#8, .sel false 5#8 6#8 7#8, .getmode false 5#8, .shape false 5#8 6#8,
    .widf false 5#8 1#3, .widf64 false 6#8 1#3, .rfal false 5#8 6#8].all (fun i =>
      meets (setMode cc0 two) fun h => (moveForm h i).any fun F => (h.check F.uses).isNone) = true ∧
    (meets (setMode 8#24 two) fun h => (moveForm h (.fclass false 5#8 6#8)).any fun F => (h.check F.uses).isNone) = true := by decide +kernel
theorem witness_floats : [Instr.fadd false 5#8 6#8 7#8, .ffma true 5#8 6#8 7#8, .fmin false 5#8 6#8 7#8, .frnd false 5#8 6#8 5#8].all (fun i =>
    meets (setMode 8#24 two) fun h => (floatForm i).any fun F => (h.check (h.fpUses (wordOf i) F.illop true F.d F.reads)).isNone &&
      (List.range 2).all fun k => enabledFlags h.team.fpctl (F.res h k).2 == 0#5) = true := by decide +kernel
theorem witness_conversions : codeFormat 9 = some (typeFormat 9) ∧
    (meets two fun h => (h.check { word := wordOf (.cvt false 6#7 5#8 9#8), writes := [(6, 2)], reads := [(5, 1)], act := h.active, grow := growOf (h.shapeOf .other h.active [h.shapeN 5 1]) 6 2 }).isNone &&
      (List.range 2).all fun k => enabledFlags h.team.fpctl (cvtLane h.format (typeFormat 9) h.rnd h.sat h.ftz (h.readN 5 1 k)).2 == 0#5) = true ∧
    (meets two fun h => (h.check { word := wordOf (.cvtFrom false 6#7 4#8 9#8), writes := [(6, 1)], reads := [(4, 2)], act := h.active, grow := growOf (h.shapeOf .other h.active [h.shapeN 4 2]) 6 1 }).isNone &&
      (List.range 2).all fun k => enabledFlags h.team.fpctl (cvtLane (typeFormat 9) h.format h.rnd h.sat h.ftz (h.readN 4 2 k)).2 == 0#5) = true := by
  decide +kernel
/-- A signalling NaN in lane 0 and 1.0 in lane 1, with every flag enabled: lane 0 alone raises one (R80). -/
def raising : State :=
  edit (fun h => { h with team := { h.team with fpctl := h.team.fpctl ||| 0x3E00#32 } }) (setLanes 6 [0x7F800001#32, 0x3F800000#32] (setMode 0x408#24 two))
def raisesFirst (fl : Here → Nat → FFlags) : Bool := raising.here.any fun h => h.raisers (fl h) == 1#1024
theorem witness_fpexc : (meets raising fun h => h.ccw == some 0) = true ∧
    (raisesFirst fun h k => snanFlag [h.fnum 6#8 k, h.fnum 6#8 k]) = true ∧
    (passes raising fun h => { word := 0#32, illop := h.format.isInt, reads := [(6, h.words), (6, h.words)], ccWrite := h.ccw, act := h.active }) = true ∧
    [Instr.fadd false 5#8 6#8 6#8, .frnd true 5#8 6#8 5#8].all (fun i => (floatForm i).any fun F =>
      passes raising (fun h => h.fpUses (wordOf i) F.illop true F.d F.reads) && raisesFirst fun h k => (F.res h k).2) = true ∧
    (passes raising fun h => { word := wordOf (.cvt false 8#7 6#8 9#8), writes := [(8, 2)], reads := [(6, 1)], act := h.active,
                               grow := growOf (h.shapeOf .other h.active [h.shapeN 6 1]) 8 2 }) = true ∧
    (raisesFirst fun h k => (cvtLane h.format (typeFormat 9) h.rnd h.sat h.ftz (h.readN 6 1 k)).2) = true ∧
    [Instr.fdiv false 5#8 6#8 6#8, .frcp true 5#8 6#8].all (fun i => raising.here.any fun h => (longForm h i).any fun F =>
      (h.check F.uses).isNone && h.raisers F.fp == 1#1024) = true := by decide +kernel
/-- The lane that raises IV traps FPEXC and is not written; the other is: 1 + 1 = 2 (R80). -/
theorem test_fpexc : (let s := run (.fadd false 5#8 6#8 6#8) (setV 5 9#32 raising)
    (reads s 5 0, reads s 5 1, s.here.map fun h => h.team.faults.map fun p => (p.cause, p.lanes))) = (some 9, some 0x40000000, some [(0x21, 1#1024)]) := by
  decide +kernel

/-! ### Witnesses: long-latency instructions -/

/-- A long-latency instruction passes its checks, divides by no zero and raises no enabled flag, with its lanes active or not. -/
def longPasses (i : Instr) (s : State) (active : Bool) : Bool :=
  meets s fun h => (h.active == 0#1024) != active && (longForm h i).any fun F => (h.check F.uses).isNone &&
    (List.range h.team.e0).all fun k => enabledFlags h.team.fpctl (F.fp k) == 0#5
theorem witness_long : [Instr.ballot false 5#8 6#8, .vote true 5#8 6#8 1#8, .redu false 5#8 6#8 0#4, .scan false 5#8 6#8 1#1 3#4, .shfl false 5#8 6#8 7#8].all
      (fun i => longPasses i two true && longPasses i (setMode 0x40#24 two) false) = true ∧
    [Instr.idiv false 5#8 6#8 7#8, .irem false 5#8 6#8 7#8].all (fun i => longPasses i (setV 7 3#32 two) true) = true ∧
    (meets (setV 7 3#32 two) fun h => (List.range 2).all fun k => h.pat 7#8 k != 0) = true ∧
    longPasses (.rfal false 5#8 6#8) (setLanes 6 [3#32, 4#32] two) true = true ∧
    [Instr.frcp false 5#8 6#8, .fsqrt false 5#8 6#8, .fdiv false 5#8 6#8 6#8].all (fun i => longPasses i (setMode 8#24 (setV 6 0x40800000#32 two)) true) = true := by
  decide +kernel
theorem witness_division_by_zero : [false, true].all (fun rem => meets (setLanes 7 [0#32, 3#32] two) fun h =>
    let i := if rem then Instr.irem false 5#8 6#8 7#8 else .idiv false 5#8 6#8 7#8
    h.team.idzq == false && (h.check { h.intUses (wordOf i) (!h.format.isInt) true 5#8 [6#8, 7#8] .other with long := true }).isNone &&
    Mask.ofPred h.team.e0 (fun k => h.active.has k && h.pat 7#8 k == 0) == 1#1024) = true := by decide +kernel
/-- A BALLOT in flight that may return. -/
theorem witness_return : let s := run (.ballot false 5#8 6#8) two
    (meets s fun h => h.team.outs.any fun o => s.mayReturn h.group.gid h.team o && decide o.dst.Nodup && o.dst.all (fun r => decide (r < h.team.v.length)) &&
      o.part.isEmpty && o.bad.isEmpty && (!o.uni || o.data.all fun p => o.data.all fun q => p.2 == q.2) && o.data.length == 2) = true := by decide +kernel
/-- Two groups whose numbers pair them. -/
def pair : State :=
  { one with groups := one.groups ++ (one.groups.map fun g => { g with gid := 1, f2 := 1, cluster := 1 }), nextGroup := 2,
             launches := one.launches.map fun l => { l with hdr := { l.hdr with width := [0, 0, 1, 0, 0, 0], ext := [1, 1, 2, 1, 1, 1] } } }
theorem witness_xshuf : (meets pair fun h => h.quiet && !pair.partnerGone h.endIdem.group h.team && !h.endIdem.mixed (.xshuf 0) &&
    (h.check { h.laneUses (wordOf (.xshuf false 5#8 6#8 7#8)) false false true 5#8 [6#8, 7#8] h.laneShape with poison := some (h.poisonRead { word := wordOf (.xshuf false 5#8 6#8 7#8), reads := [(7, h.words)], act := h.active }) }).isNone) = true := by
  decide +kernel
/-- RDIDX of the greatest register that may be named, and WRIDX of one register for each lane. -/
theorem witness_computed_numbers :
    (meets (setV 6 63#32 two) fun h => (h.check { word := wordOf (.rdidx false 5#8 6#8), writes := [(5, 1)], reads := [(6, 1)], act := h.active }).isNone &&
      (h.check { word := wordOf (.rdidx false 5#8 6#8), writes := [(5, 1)], reads := [(6, 1)], act := h.active, grow := growOf (h.shapeOf .mov h.active [h.shapeWord 63]) 5 1 }).isNone &&
      decide (63 < h.team.vCount ∧ 63 ∉ h.team.pending ∧ (h.team.reg 63).poisoned 0 = false)) = true ∧
    (meets (setLanes 6 [8#32, 9#32] two) fun h => (h.check { word := wordOf (.wridx false 6#8 7#8), reads := [(6, 1), (7, 1)], act := h.active }).isNone &&
      (h.check { word := wordOf (.wridx false 6#8 7#8), reads := [(6, 1), (7, 1)], act := h.active, grow := [8, 9] }).isNone &&
      h.lanes.all fun k => decide ((h.read 6 k).toNat < h.team.vCount ∧ (h.read 6 k).toNat ∉ h.team.pending ∧ (h.read 6 k).toNat ∉ h.team.locked)) = true := by
  decide +kernel

/-! ### Witnesses: control and traps -/

/-- A team whose next join number is free, and one where a live join point holds it. -/
theorem witness_plain_control : (meets two fun h => decide (h.levels < 16 ∧ h.team.joinCtr < 2 ^ 32 ∧ h.team.joinCtr ∉ h.team.joinNums) && !h.team.isCore) = true ∧
    (meets (edit (fun h => { h with frag := { h.frag with joins := [{ addr := 0x10000#48, num := h.team.joinCtr }] } }) two) fun h =>
      decide (h.levels < 16 ∧ h.team.joinNums.length < 2 ^ 32 ∧ h.team.joinCtr ∈ h.team.joinNums)) = true := by decide +kernel
/-- The greatest legal code of each field of a mode image, the least reserved code of each, and bit 23; and GETMODE of a lane. -/
theorem witness_mode : modeImageOk 0x6FB3FB#23 = true ∧
    [0x0D00000C, 0x0D001400, 0x0D00C000, 0x0D700000, 0x0D800000].all (fun w => match decode (BitVec.ofNat 32 w) with | .ok _ => false | .error _ => true) = true ∧
    (meets two fun h => let sh : Shape := if h.team.isCore ∨ h.frag.acting = h.team.live then .u else .g
      (h.check { word := wordOf (.getmode false 5#8), writes := [(5, 1)], guard := false, act := h.frag.acting, grow := growOf sh 5 1 }).isNone) = true := by
  decide +kernel
theorem witness_sleep : (meets { one with clock := 100 } fun h => (h.check { word := 0#32, reads := [(6, 1)], guard := false, act := h.frag.acting }).isNone &&
      h.frag.acting.lanes h.team.e0 == [0] && !(BitVec.ofNat 32 h.clock - h.read 6 0).msb) = true ∧
    (meets (setV 6 101#32 { one with clock := 100 }) fun h => (BitVec.ofNat 32 h.clock - h.read 6 0).msb) = true := by decide +kernel
theorem witness_fork : (meets (setV 6 0x10000#32 two) fun h =>
    let w := wordOf (.fork false 6#8 8#8)
    (h.check { word := w, illop := h.team.isCore || ((two.launchOf h.group).map (·.hdr.cv)).getD 0 == 0 || h.group.coreRuns, guard := false,
               reads := [(6, 2), (8, 2)], act := h.frag.acting,
               poison := some (h.poisonRead { word := w, reads := [(6, 2), (8, 2)], act := BitVec.ofNat 1024 1 }) }).isNone &&
      h.frag.acting.lowest h.team.e0 == 0 && h.readN 6 2 0 % 4 == 0) = true := by decide +kernel
/-- A transfer that no lane takes; one that all lanes take to the last address, and to a relative one; and targets that are not
aligned, and not below 2^48. -/
theorem witness_transfers : (meets two fun h => (branchForm h (.bra false 0#2 1#4 4#18)).any fun F => (h.check F.uses).isNone && F.takes == 0#1024 && h.frag.mask != 0#1024) = true ∧
    (meets (setV 4 0xFFFFFFFC#32 (setV 5 0xFFFF#32 two)) fun h => [Instr.jmpReg false 4#8, .callReg false 4#8, .ret false 4#8].all fun i =>
      (branchForm h i).any fun F => (h.check F.uses).isNone && F.takes == h.frag.mask && F.takes.has 1 && (List.range 2).all fun k => F.target k == 2 ^ 48 - 4) = true ∧
    (meets two fun h => (branchForm h (.call false 8#24)).any fun F => (h.check F.uses).isNone && F.takes == h.frag.mask && F.target 0 == 0x10020) = true ∧
    (meets (setLanes 4 [0x10002#32, 0#32] two) fun h => (branchForm h (.jmpReg false 4#8)).any fun F => (h.check F.uses).isNone && F.target 0 % 4 != 0) = true ∧
    (meets (setLanes 5 [0#32, 0x10000#32] two) fun h => (branchForm h (.jmpReg false 4#8)).any fun F => (h.check F.uses).isNone && F.target 1 == 2 ^ 48) = true := by
  decide +kernel
/-- BRA on Z, which lane 1 alone has. -/
theorem witness_split : let s := edit (fun h => { h with team := { h.team with cc := [0#16, 4#16] } }) two
    (meets s fun h => (branchForm h (.bra false 0#2 1#4 4#18)).any fun F => (h.check F.uses).isNone && F.takes == 2#1024 &&
      h.frag.mask &&& ~~~F.takes == 1#1024 && decide ((s.splitRoom h).1 = 63) && (s.splitRoom h).2.head? == some 1 && decide (h.levels ≤ 16) &&
      h.frag.pc.toNat % 4 == 0 && h.team.frags.all fun f => f.entry != 1) = true := by decide +kernel
/-- A second group whose team's reserved entries leave the quadrant with none that is free, below 16 levels and at 16. -/
def fullQuadrant (levels : Nat) : State :=
  edit (fun h => { h with team := { h.team with cc := [0#16, 4#16] }, frag := { h.frag with joins := List.replicate levels { addr := 0x20000#48, num := 7 } } })
    { two with groups := two.groups ++ two.groups.map fun g => { g with gid := 1, f2 := 1, splitmin := 63 }, nextGroup := 2 }
theorem witness_serial_split : [0, 15, 16].all (fun n => meets (fullQuadrant n) fun h => (branchForm h (.bra false 0#2 1#4 4#18)).any fun F =>
    (h.check F.uses).isNone && F.takes == 2#1024 && h.frag.mask &&& ~~~F.takes == 1#1024 && decide (((fullQuadrant n).splitRoom h).1 = 0) && h.levels == n &&
      h.frag.pc.toNat % 4 == 0) = true := by decide +kernel
/-- Two lanes that go to two addresses, with as many entries as they need and no more. -/
theorem witness_two_targets : let s := setLanes 4 [0x10000#32, 0x20000#32] two
    (meets s fun h => decide ((s.splitRoom h).2.Nodup) && decide (h.levels ≤ 16) && (s.splitRoom h).2.all (fun e => h.team.frags.all fun f => f.entry != e) &&
      [Instr.jmpReg false 4#8, .callReg false 4#8, .ret false 4#8].all fun i => (branchForm h i).any fun F => (h.check F.uses).isNone && F.takes == h.frag.mask &&
        F.target 0 == 0x10000 && F.target 1 == 0x20000 &&
        decide (((F.takes.lanes h.team.e0).map F.target).eraseDups.length + 0 ≤ min (s.splitRoom h).1 (s.splitRoom h).2.length + 1)) = true := by decide +kernel
/-- EXIT with nothing outstanding, with a long-latency operation outstanding, and with a command queued. -/
theorem witness_exit : (meets two fun h => (h.check { word := wordOf (.exit false), act := h.active }).isNone && h.quiet) = true ∧
    (meets core fun h => (h.check { word := wordOf (.exit false), act := h.active }).isNone && h.quiet && h.team.isCore && h.group.munit.queue.isEmpty &&
      h.group.munit.held.isEmpty) = true ∧
    (meets (run (.ballot false 5#8 6#8) two) fun h => (h.check { word := wordOf (.exit false), act := h.active }).isNone && !h.quiet) = true ∧
    (meets (run (.mdrop false 0#3) core) fun h => (h.check { word := wordOf (.exit false), act := h.active }).isNone && h.team.isCore && !h.group.munit.queue.isEmpty) = true := by
  decide +kernel
theorem witness_arrivals : (meets two fun h => h.quiet && !h.team.isCore && !h.mixed (.bar 3) && !h.mixed .rdv) = true ∧
    (meets (edit (fun h => { h with frag := { h.frag with joins := [{ addr := 0x10000#48, num := 0 }] } }) two) fun h =>
      (h.frag.joins.head?.map (·.addr)) == some h.frag.pc) = true := by decide +kernel
/-- Two fragments stand at the FUSE of one join number; or one alone does. -/
def fusing (both : Bool) : Team :=
  let j : JoinPoint := { addr := 0x10000#48, num := 7 }
  let f (e : Nat) (stands : Bool) : Frag := { newFrag e 1 placedAt 1 0 with mask := BitVec.ofNat 1024 (2 ^ e), joins := [j], park := if stands then .fuse else .none }
  { newTeam 0 0 0 0 2 64 32 16 1 with frags := [f 1 both, f 0 true] }
theorem witness_fuse : ((fusing true).fuseReady 7 = true ∧ (fusing false).fuseReady 7 = false) ∧
    [true, false].all (fun b => (fusing b).frags.all fun f => f.park != .fuse || (f.joins.head?.map (·.num)) == some 7) = true ∧
    ((fusing true).frags.all fun f => decide (f.entry = 0 ∧ f.part = 0 ∨ 0 < f.entry)) = true := by decide +kernel
/-- The one team of a group has arrived; or a second, still running, is missing. -/
theorem witness_barriers : let g := (edit (fun h => { h with frag := { h.frag with park := .bar 3 } }) one).groups.head?
    (g.any fun g => decide (3 < g.barriers.length) && g.arrivals (.bar 3) != 0#64 &&
      g.teams.all fun t => t.live == 0#1024 || (!t.frags.isEmpty && t.frags.all fun f => decide (f.park = .bar 3))) = true ∧
    (one.groups.head?.any fun g => g.teams.any fun t => t.live != 0#1024 && t.frags.any fun f => decide (f.park ≠ .bar 3)) = true := by decide +kernel

/-- TRAP with an active lane, and with none. -/
theorem witness_trap : [two, setMode 0x40#24 two].all (fun s => meets s fun h => (h.check { word := wordOf (.trap false 7#24), act := h.active }).isNone) = true := by
  decide +kernel
/-- A register that the counts do not hold, in an instruction of each table. -/
theorem witness_failing_check : (meets two fun h => ((aluForm (.iadd false 5#8 64#8 7#8)).any fun F => (h.check (F.uses (.iadd false 5#8 64#8 7#8) h)).isSome) &&
    ((moveForm h (.mov false 5#8 64#8)).any fun F => (h.check F.uses).isSome) && ((longForm h (.ballot false 64#8 7#8)).any fun F => (h.check F.uses).isSome) &&
    ((floatForm (.fadd false 5#8 6#8 7#8)).any fun F => (h.check (h.fpUses 0#32 F.illop true F.d F.reads)).isSome) &&
    ((branchForm h (.jmpReg false 64#8)).any fun F => (h.check F.uses).isSome) && ((accessForm h (.ld false 5#8 1#4 0#4 64#8)).any fun F => (h.check F.uses).isSome) &&
    ((objectForm h (.qclaim false 64#8 1#4)).any fun F => (h.check F.uses).isSome)) = true ∧
    (meets core fun h => (matrixForm core h (.mstat false 255#8 0#3)).any fun F => (h.check { F.uses with illop := F.uses.illop || !h.team.isCore, act := h.active, long := true }).isSome) = true ∧
    (meets two fun h => !h.team.isCore && (matrixForm two h (.mma false 7#3)).isSome) = true ∧ (meets core fun h => h.team.isCore) = true := by decide +kernel
/-- A matrix instruction of a vector team traps ILLOP (R186). -/
theorem test_illop : ((run (.mma false 7#3) two).here.map fun h => h.team.faults.map (·.cause)) = some [0x01] := by decide +kernel
/-- The checks of R88, each the first to fail, at the bounds of what they allow. -/
theorem witness_check_order :
    let poisoned := edit (fun h => { h with team := h.team.setReg 6 { val := .u 0#32, poison := 1#1024 } }) two
    (meets poisoned fun h =>
      let cause (u : Uses) : Option Nat := (h.check { u with act := h.active }).map (·.cause)
      cause { word := 0#32, illop := true, reads := [(0xD9, 1)] } == some 0x01 && cause { word := 0#32, reads := [(0xD9, 1), (64, 1)] } == some 0x02 &&
      cause { word := 0#32, writes := [(0xD0, 1)], long := true } == some 0x02 && cause { word := 0#32, reads := [(64, 1)], window := some 2 } == some 0x03 &&
      cause { word := 0#32, reads := [(0xD0, 1)], window := some 2 } == some 0x03 && cause { word := 0#32, reads := [(0xD0, 1), (6, 1)] } == some 0x05 &&
      cause { word := 0#32, reads := [(0xD0, 1), (6, 1)], bound := some { cause := 3, lanes := some 1#1024 }, busy := some { cause := 5 } } == some 0x03 &&
      cause { word := 0#32, reads := [(6, 1)], busy := some { cause := 5, lanes := some 2#1024 } } == some 0x05 &&
      cause { word := 0#32, reads := [(6, 1)] } == some 0x06 && cause { word := 0#32, reads := [(63, 1), (0xCF, 1)] } == none) = true ∧
    [(0, 0x04), (1, 0)].all (fun p => meets (edit (fun h => { h with team := { h.team with gMax := h.team.gCount + p.1 } }) two) fun h =>
      ((h.check { word := 0#32, writes := [(5, 1)], grow := [5], act := h.active }).map (·.cause)).getD 0 == p.2) = true := by decide +kernel

/-- A trap that is due to the placed fragment. -/
def trapping (s : State) : State := run (.trap false 7#24) s
def dueHere (s : State) (p : Frag → PendFault → Launch → Bool) : Bool :=
  s.shaped && (s.agent? s.cur).any fun a => (a.2.1.dueTrap a.2.2).any fun q => (s.launchOf a.1).any (p a.2.2 q)
theorem witness_delivery : dueHere (trapping (setTrapvec 0x20000 two)) (fun f p l => l.trapvec != 0 && !f.priv && p.cause != 0x41 && p.lanes &&& f.mask != 0#1024) = true ∧
    dueHere (edit (fun h => { h with team := { h.team with faults := h.team.faults.map fun p => { p with lanes := 0#1024, deferred := 2#1024 } } })
      (trapping (setTrapvec 0x20000 two))) (fun f p l => l.trapvec != 0 && !f.priv && p.cause != 0x41 && p.lanes &&& f.mask == 0#1024) = true ∧
    dueHere (trapping two) (fun f p l => l.trapvec == 0 && !f.priv && p.cause != 0x41 && p.lanes &&& f.mask != 0#1024 && decide (l.phase = .ready)) = true ∧
    dueHere (trapping (setPriv (setTrapvec 0x20000 two))) (fun f p l => f.priv && p.cause != 0x41 && p.lanes &&& f.mask != 0#1024 && decide (l.phase = .ready)) = true := by
  decide +kernel
/-- The handler of that trap. -/
def handler : State := run (.trapDelivery two.cur) (trapping (setTrapvec 0x20000 two))
theorem witness_tret : (meets handler fun h => h.frag.priv && (h.frag.frame.bind h.team.frame?).any fun r => h.frag.frame == some r.id) = true := by decide +kernel
/-- The frame as it ends, with no lane that retries, and with one, of a trap, and of an advisory. -/
theorem witness_frame_end : [(0#1024, false), (2#1024, false), (2#1024, true)].all (fun x => meets handler fun h => h.team.frames.head?.any fun q =>
    let r : Frame := { q with retry := x.1, flt := if x.2 then 0x41#32 :: q.flt.tail else q.flt }
    h.team.cc.length == h.team.e0 && r.cc.length == h.team.e0 && !r.held && r.mask &&& h.team.live != 0#1024 &&
    h.team.frags.all (fun f => f.frame == some r.id) && ((r.flt.headD 0#32).toNat % 256 == 0x41) == x.2 &&
    (((r.retry ||| r.deferred) &&& (r.mask &&& h.team.live) == 0#1024) == (x.1 == 0#1024))) = true := by
  decide +kernel
/-- A trap's delivery and its return by skip: the handler at TRAPVEC at S, and the fragment again after the TRAP at U. -/
theorem test_delivery : (handler.here.map fun h => (h.frag.pc.toNat, h.frag.priv, h.frag.mode.toNat)) = some (0x20000, true, 0) := by decide +kernel
theorem test_tret_skip : ((run (.tretSkip false) handler).here.map fun h => (h.frag.pc.toNat, h.frag.priv, h.team.frames.length)) = some (0x10004, false, 0) := by
  decide +kernel

/-! ### Witnesses: memory -/

/-- A buffer record of words or other elements (R121): BASE, LOG2SZ, EXTENT and STRIDE. -/
def record (base log2 extent : Nat) : Nat := base + log2 * 2 ^ 48 + extent * 2 ^ 64 + 2 ^ log2 * 2 ^ 96
/-- The line of a number, where device 0's first 2 MiB lie. -/
def line (n : Nat) : Place := { space := .device, addr := 128 * n, keyid := 0, dual := none }
/-- The group with a scratchpad of 128 bytes and a window of 32 words. -/
def windowed (s : State) : State := edit (fun h => { h with group := { h.group with spad := 128, windows := [{ num := 1, offset := 0, log2sz := 2, extent := 32 }] } }) s
/-- The checks of an access pass: every element in range, aligned and mapped. -/
def accessPasses (i : Instr) (s : State) : Bool :=
  meets s fun h => (accessForm h i).any fun F => (F.base.check F.uses).isNone && F.uses.act != 0#1024 && h.frag.lines.isNone && !F.forbidden &&
    decide (F.scope ≤ (s.vd 0).ceiling) && !F.lanes.isEmpty && F.lanes.all fun t => (F.elems t).all fun e =>
      decide (e < F.buf.extent ∧ F.buf.place e < 2 ^ 48 ∧ F.buf.place e % 2 ^ F.buf.log2 = 0) &&
      (F.buf.window || (s.lineAnswer h.group.cluster 0 (F.buf.place e) (F.buf.place e) F.kind == .ok (line (F.buf.place e / 128)) && F.check.isNone))
/-- A record of 16 words whose last element is reached, and one of 16-byte records. -/
def buffered : State := setV 6 15#32 (setB 1 (record 0x10200 2 19) two)
theorem witness_memory : [Instr.ld false 5#8 1#4 3#4 6#8, .st true 5#8 1#4 0#4 6#8, .ldv false 8#8 1#4 0#4 6#8, .stv false 8#8 1#4 0#4 6#8,
      .atom false 8#8 1#4 0#4 6#8].all (fun i => accessPasses i buffered) = true ∧
    accessPasses (.ldrb false 2#4 1#4 0#4 6#8) (setB 1 (record 0x10200 4 1) two) = true := by decide +kernel
/-- An element that is not good: of the extent, misaligned, and read-only, and one past a window (R124). -/
def stopsAt (i : Instr) (s : State) : Bool :=
  meets s fun h => (accessForm h i).any fun F => (F.base.check F.uses).isNone && h.active.has 0 && (F.forbidden || F.lanes.any fun t => (F.elems t).any fun e =>
    decide (F.buf.extent ≤ e ∨ F.buf.place e % 2 ^ F.buf.log2 ≠ 0))
theorem witness_bad_elements : stopsAt (.ld false 5#8 1#4 3#4 6#8) (setV 6 19#32 buffered) = true ∧
    stopsAt (.ldv false 8#8 1#4 0#4 6#8) (setV 6 1#32 (setB 1 (record 0x10201 2 19) two)) = true ∧
    stopsAt (.st false 5#8 1#4 0#4 6#8) (setB 1 (record 0x10200 2 19 + 2 ^ 55) buffered) = true ∧
    stopsAt (.lds false 5#8 1#4 0#4 6#8) (windowed (setV 6 32#32 two)) = true := by decide +kernel
/-- One past the extent traps BOUNDS and nothing is sent (R124). -/
theorem test_bounds : (let s := run (.ld false 5#8 1#4 3#4 6#8) (setV 6 19#32 buffered)
    (s.reqs.length, s.here.map fun h => h.team.faults.map (·.cause))) = (0, some [0x10]) := by decide +kernel
theorem witness_window : [Instr.lds false 5#8 1#4 0#4 6#8, .sts false 5#8 1#4 0#4 6#8, .atoms false 8#8 1#4 0#4 6#8].all
    (fun i => accessPasses i (windowed (setV 6 31#32 two))) = true := by decide +kernel
theorem witness_hints_and_fences :
    (meets buffered fun h => (h.check { word := 0#32, reads := [(6, 1)], brec := some 1, act := h.active }).isNone) = true ∧
    (meets (setV 7 0x40000#32 two) fun h => (h.check { word := 0#32, reads := [(6, 2), (8, 2)], bdst := some 1, act := h.active, poison := h.oncePoison [(6, 2), (8, 2)] }).isNone &&
      (let r := BitVec.ofNat 128 (h.readN 6 2 0 + 2 ^ 64 * h.readN 8 2 0); decide (recLog2 r = 4 ∧ recSwz r = 0))) = true ∧
    (meets (setMode 0x40#24 two) fun h => h.active == 0#1024 &&
      (h.check { word := 0#32, reads := [(6, 2), (8, 2)], bdst := some 1, act := h.active, poison := h.oncePoison [(6, 2), (8, 2)] }).isNone) = true ∧
    (4 ≤ (two.vd 0).ceiling ∧ (two.here.any fun h => h.frag.hist.isEmpty) = true) ∧
    (meets (run (.ld false 5#8 1#4 3#4 6#8) buffered) fun h => h.team.loadsOut h.frag) = true ∧
    (let s := run (.st false 5#8 1#4 0#4 6#8) buffered; (meets s fun h => s.reqs.any fun r => h.frag.hist.contains r.root && decide (r.action = .write) &&
      (s.reqs.find? fun q => q.root == r.root) == some r) = true) := by decide +kernel
/-- The instructions on a queue descriptor, on a ring in memory and on one in a window. -/
def objectPasses (i : Instr) (s : State) : Bool :=
  meets s fun h => (objectForm h i).any fun F => (F.base.check F.uses).isNone && (F.obj.buf.window || (F.base.recordCheck F.obj.buf.num).isNone) && F.uses.act != 0#1024 && F.obj.long && F.obj.addr % F.obj.align == 0 &&
    (F.obj.buf.window || (!recRo (h.bufRecord F.obj.buf.num) && !recPub (h.bufRecord F.obj.buf.num) &&
      s.lineAnswer h.group.cluster 0 F.obj.addr F.obj.addr F.kind == .ok (line (F.obj.addr / 128))))
theorem witness_objects : [Instr.qclaim false 5#8 1#4, .qwrite false 8#8 1#4 3#4 6#8, .qpost false 1#4 6#8, .awaitf false 1#4 6#8, .relslot false 1#4 6#8,
      .rdprom false 8#8 1#4 6#8].all (fun i => objectPasses i (setMode cc0 buffered)) = true ∧
    [Instr.awaitfWindow false 1#4 6#8, .relslotWindow false 1#4 6#8, .rdpromWindow false 8#8 1#4 6#8].all (fun i => objectPasses i (windowed two)) = true := by
  decide +kernel
/-- Device 0 with SCEIL 6 and the dual-backed range of its first 2 MiB. -/
def published : State :=
  setB 1 (record 0x10200 2 16 + 2 ^ 56) { two with vds := two.vds.map fun v => { v with pol := 6#32, pubs := v.pubs.set 0 (BitVec.ofNat 128 (2 ^ 64 + 2 ^ 37)) } }
theorem witness_seal_and_publish :
    (meets (setV 6 0x10200#32 two) fun h => (h.check { word := 0#32, writes := [(5, 1)], reads := [(6, 2)], long := true, act := h.active,
                                                       grow := growOf h.oneShape 5 1, poison := h.oncePoison [(6, 2)] }).isNone && h.active != 0#1024 &&
      h.readN 6 2 0 == 0x10200 && two.lineAnswer 0 0 0x10200 0x10200 .read == .ok (line 0x204)) = true ∧
    (meets two fun h => (h.check { word := 0#32, reads := [(6, 1)], act := h.active, poison := h.oncePoison [(6, 1)] }).isNone && h.active != 0#1024) = true ∧
    (meets published fun h => (h.check ((h.descAt 1#4).uses { word := 0#32, act := h.active })).isNone && decide (0 < recExtent (h.bufRecord 1)) &&
      recPub (h.bufRecord 1) && published.lineAnswer 0 0 0x10200 0x10200 .read == .ok { line 0x204 with dual := some (0, 32 * 2 ^ 21 + 0x10200) } && decide (5 ≤ (published.vd 0).ceiling)) = true := by
  decide +kernel

/-- The first request in flight, of a package where nothing has failed, is ready at its home. -/
def atHome (s : State) (p : Req → Bool) : Bool :=
  s.shaped && s.canonical && s.unhurt && s.reqs.head?.any fun r => s.reqReady r && r.check.isNone && r.place.dual.isNone &&
    !s.wrongKey r.place && (match r.place.space with | .scratch gid => (s.group? gid).isSome | _ => true) &&
    ((s.group? r.gid).any fun g => (g.team? r.tid).any fun t => (t.outs.find? fun x => x.id == r.op).any fun o => decide (o.kind = .memory)) && p r
def sound (s : State) (r : Req) : Bool := (s.reqSyndrome r.place).isNone && decide ((s.region (regionOf r.place.addr)).state ≠ .retired)
/-- The first request lands. -/
def landed (s : State) : State := { s with reqs := s.reqs.map fun r => { r with landed := true } }
def storing : State := landed (run (.st false 5#8 1#4 0#4 6#8) (setV 5 0xA1B2C3D4#32 buffered))
def loading : State := landed (run (.ld false 5#8 1#4 0#4 6#8) buffered)
def adding : State := landed (run (.atom false 8#8 1#4 0#4 6#8) (setV 6 15#32 (setB 1 (record 0x10200 2 19) one)))
theorem witness_requests : atHome storing (fun r => decide (r.action = .write) && sound storing r) = true ∧
    atHome loading (fun r => (match r.action with | .read _ => true | _ => false) && sound loading r) = true ∧
    atHome adding (fun r => (match r.action with | .atomic .. => true | _ => false) && r.lanes.length == 1 && !r.once && r.lanes.all (fun x => x.len == 4) && sound adding r) = true := by
  decide +kernel
/-- A store puts its bytes at BASE + 4 * 15, low byte first (R7, R121). -/
theorem test_store_order : let s := run (.lineRequest 0) storing
    (s.byteAt .device 0x1023C, s.byteAt .device 0x1023F, s.byteAt .device 0x10240) = (0xD4#8, 0xA1#8, 0#8) := by decide +kernel

/-! ### Witnesses: matrix, system registers and translation -/

/-- A matrix instruction passes its checks on the control core; the elements it names are in range. -/
def matrixPasses (i : Instr) (s : State) : Bool :=
  meets s fun h => h.team.isCore && (matrixForm s h i).any fun F => (h.check { F.uses with act := h.active, long := true }).isNone
theorem witness_matrix :
    [Instr.mainit false 0#2 0#3 5#12, .mainitAuto false 1#2 1#3 4#5, .mma false 7#3, .mresolve true 0#3, .mcmp false 5#8 0#3 6#8, .mdrop false 0#3, .mdropFa false 16#16,
      .mdropFb false 1#16, .mstat false 5#8 0#3, .mwait false 0#3 1#8].all (fun i => matrixPasses i core && matrixPasses i (setMode 0x40#24 core)) = true := by decide +kernel
/-- The last 1,024 elements of a buffer, in a record and in a window. -/
theorem witness_matrix_buffers :
    [Instr.msave false 1#4 0#3 6#8, .mload false 1#4 0#3 6#8 7#8].all (fun i => matrixPasses i (setV 7 3#32 (setV 6 4#32 (setB 1 (record 0x10000 4 1028) core)))) = true ∧
    (List.range 1024).all (fun k => decide (4 + k < 1028 ∧ 0x10000 + (4 + k) * 16 < 2 ^ 48 ∧ (0x10000 + (4 + k) * 16) % 16 = 0)) = true ∧
    headerOk 3 0 = true ∧
    matrixPasses (.mdrain false 0#3 1#4 0#4 6#8) (edit (fun h => { h with group := { h.group with spad := 4096, windows := [{ num := 1, offset := 0, log2sz := 2, extent := 1024 }] } }) core) = true := by
  decide +kernel
theorem witness_system_registers :
    [0, 0x20, 0x25].all (fun n => meets (setPriv two) fun h =>
      (h.check { word := 0#32, illop := h.sysIllegal n, writes := [(5, 1)], act := h.active, grow := growOf h.oneShape 5 1 }).isNone &&
      (h.check { word := 0#32, illop := h.sysIllegal n, reads := [(5, 1)], act := h.active, poison := h.oncePoison [(5, 1)] }).isNone) = true ∧
    (handler.here.any fun h => (h.check { word := 0#32, illop := h.sysIllegal 0x17, writes := [(5, 1)], act := h.active, grow := growOf h.oneShape 5 1 }).isNone &&
      h.frame.any fun r => r.flt.length == 8) = true ∧
    sysRefuses 0 1 = false ∧ sysRefuses 0 0x80000000 = true ∧ sysRefuses 0x24 0x7E = false ∧ sysRefuses 0x24 1 = true := by decide +kernel
/-- TRAPVEC0 written before TRAPVEC1, in a handler: the pair is put together at the second write (R362). -/
theorem test_trapvec : ((run (.sysw false 5#8 0x21#16) (setV 5 1#32 (run (.sysw false 5#8 0x20#16) (setV 5 0x40000#32 (setPriv two))))).launches.map (·.trapvec)) =
    [0x100040000] := by decide +kernel
/-- The handler of a division by zero, whose destination a REPLACE writes. -/
def dividing : State := run (.trapDelivery two.cur) (run (.longLatencyReturn two.cur 0) (run (.idiv true 5#8 6#8 7#8) (setTrapvec 0x20000 two)))
theorem witness_replace : (meets dividing fun h => h.frag.priv && h.frame.any fun r => r.dest == [5] &&
    ((h.freeHeld 5).check { word := 0#32, reads := [(6, 1)], writes := [(5, 1)], act := h.active, grow := growOf (h.shapeOf .mov h.active [h.shapeWord 6]) 5 1 }).isNone) =
    true ∧
    (meets (edit (fun h => { h with team := { h.team with frames := h.team.frames.map fun r => { r with dest := [0xD0] } } }) dividing) fun h =>
      h.frag.priv && (h.frame.any fun r => r.dest == [0xD0]) && ((h.freeHeld 0xD0).check { word := 0#32, reads := [(6, 1)], act := h.active }).isNone) = true := by
  decide +kernel
theorem witness_translation_upkeep :
    (meets (setV 6 0x10208#32 (setPriv two)) fun h => (h.check { word := 0#32, illop := !h.frag.priv, reads := [(6, 2), (8, 2)], act := h.active, poison := h.oncePoison [(6, 2), (8, 2)] }).isNone &&
      h.readN 6 2 0 == 0x10208 && two.ptwPlace 0 0x10208 == .ok (line 0x204)) = true ∧
    (meets (setPriv two) fun h => (h.check { word := 0#32, illop := !h.frag.priv, reads := [(6, 2)], act := h.active, poison := h.oncePoison [(6, 2)] }).isNone && (two.openWrites h.frag).isEmpty) = true ∧
    (let s := setPriv (run (.st false 5#8 1#4 0#4 6#8) buffered); (meets s fun h => !(s.openWrites h.frag).isEmpty) = true) ∧
    (meets two fun h => !h.frag.priv) = true := by decide +kernel

/-! ### Witnesses: fragments, launches and pre-emption -/

/-- A state that meets the invariants, its one fragment as an agent, and a condition. -/
def atAgent (s : State) (p : Group → Team → Frag → Bool) : Bool := s.shaped && s.canonical && (s.agent? s.cur).any fun a => p a.1 a.2.1 a.2.2
/-- An AWAITF on a ring of one slot whose PROMISE, clock 0, has passed. -/
def awaiting : State := edit (fun h => { h with
  group := { h.group with spad := 128, windows := [{ num := 1, offset := 0, log2sz := 2, extent := 32 }]
                          mem := [(0, 0x20#8), (6, 4#8), (8, 1#8), (12, 1#8), (52, 1#8)] }
  team := { h.team with outs := [{ h.newOut { word := 0#32 } (.awaitf 1 { vd := 0, window := some (0, 1), addr := 0, slot := 0 }) with lanes := 1#1024 }] }
  frag := { h.frag with park := .awaitf 0 } }) { one with clock := 1 }
def sleeping : State := { run (.sleepuntil false 6#8) (setV 6 5#32 one) with clock := 5 }
def advised : State := let s := setTrapvec 0x20000 (run (.nop true) one); { s with launches := s.launches.map fun l => { l with advisories := [(4, 0)] } }
def forked : State := run (.fork false 6#8 8#8) (setV 6 0x10000#32 one)
def growing : State := run (.acquire false) one
def stored : State := run (.st false 5#8 1#4 0#4 6#8) buffered
theorem witness_fragment_events :
    atAgent sleeping (fun _ _ f => f.park == .sleep [5#32] && f.sleepDue sleeping.clock) = true ∧
    atAgent advised (fun g t f => advised.dueAdvice g t f == some (4, 0) && (advised.launchOf g).any fun l => l.trapvec != 0) = true ∧
    atAgent awaiting (fun _ t f => (awaiting.promiseDue t f).isSome) = true ∧
    atAgent { stored with acks := [0] } (fun _ _ f => ({ stored with acks := [0] } : State).dueAck f == some 0) = true ∧
    stored.reqs.head?.any (fun r => stored.mayLand r && (stored.reqs.find? fun q => q.id == r.id) == some r && (stored.vds[r.vd]?).isSome) = true ∧
    atAgent forked (fun g _ f => forked.nextFork 0 == some forked.cur && (match f.park with | .fork .. => true | _ => false) && (forked.launchOf g).isSome &&
      (forked.forkContext g).isSome && g.core.isNone) = true ∧
    atAgent growing (fun g _ f => f.park == .acquire && g.phase == .resident && (growing.launchOf g).isSome) = true := by decide +kernel
/-- The growth ends the park (R242). -/
theorem test_acquire : ((run (.acquireGrant 0 0) growing).here.map fun h => (h.team.acquired, decide (h.frag.park = .none))) = some (true, true) := by decide +kernel

/-- A queue with a packet at its head that has started; with memory at 0x10400. -/
def queued (q : QueueId) (p : Packet) (at_ : List Byte) : State :=
  { one with queues := [{ Queue.bound q (some 0) true false with head := some p }], mem := one.mem.write 0x10400 at_ }
def packet (bits : Nat) : Packet :=
  { slot := 0, bits := bits, group := some 0, ring := none, receivers := [], started := true, woken := false, reported := false, layoutA := 0, layoutB := 0, progress := 0, done := 0, flags := 0,
    code := none, fva := 0, hdr := none, wins := [] }
/-- A header of one group with FV and PV 8 and FG and PG 4, and one of zeros. -/
def launching (ok : Bool) : State := queued placedQueue (packet (5 + 0x10400 * 2 ^ 128))
  (if ok then leBytes 128 (0x10000 + 2 ^ 56 + 8 * 2 ^ 320 + 4 * 2 ^ 328 + 8 * 2 ^ 336 + 4 * 2 ^ 344) else [])
/-- A launch at 0x10000 with FV and PV 8 and FG and PG 4, which waits until the word at 0x10600 is 1. -/
def delaying : State := queued placedQueue (packet (5 + 0x10400 * 2 ^ 128)) (leBytes 128 (0x10000 + 2 ^ 56 + 8 * 2 ^ 320 + 4 * 2 ^ 328 + 8 * 2 ^ 336 + 4 * 2 ^ 344 + 0x10600 * 2 ^ 736 + 2 * 2 ^ 784 + 2 ^ 800))
/-- The wait list of die 0, full. -/
def crowded (s : State) : State := { s with launches := List.replicate 64 ((s.newLaunch placedQueue (packet 5) (packet 5).header.1)) }
/-- The header of that packet is read whole, and admission answers, and its condition. -/
def handsOver (s : State) (ok met : Bool) : Bool :=
  (s.queue? placedQueue).any fun x => x.head.any fun p => p.started && p.code.isNone && p.type == 5 && x.miss.isNone && !s.serverStopped placedQueue &&
    (let n := lineCount (s.headerLines 0 p)
     let t := s.pay placedQueue n
     let r := t.readHeader 0 p
     s.mayReach placedQueue (s.headerLines 0 p ++ [placedQueue.desc]) n && r.2.isNone && t.accepts 0 r.1.header.2 r.1.header.1 == ok &&
      (!ok || (match t.conditionMet (t.newLaunch placedQueue r.1 r.1.header.1) with | .ok b => b == met | _ => false)))
theorem witness_launch_packet : handsOver (launching true) true true = true ∧ handsOver (launching false) false false = true ∧
    handsOver delaying true false = true ∧ (delaying.waitList 0).length < 64 ∧
    handsOver (crowded delaying) true false = true ∧ ((crowded delaying).waitList 0).length = 64 := by decide +kernel
/-- The placed launch, changed. -/
def relaunch (f : Launch → Launch) (s : State) : State := { s with launches := s.launches.map f }
/-- The placed launch with its group to admit, and device 0's grants of clusters. -/
def admittingOn (n : Nat) : State := relaunch (fun l => { l with toAdmit := 1 }) { one with
  groups := [], clusters := one.clusters.mapIdx fun k c =>
    { c with grants := if k < n then (List.range 4).map fun q => { quad := q, vd := 0, until_ := 9, spent := false } else [] } }
def admitting : State := admittingOn 216
/-- The same with the first n clusters alone. -/
def few (n : Nat) (s : State) : State := { s with clusters := s.clusters.take n }
theorem witness_launch_events :
    (let s := relaunch (fun l => { l with phase := .waiting }) one
     (s.waitList 0).head?.any (fun l => s.serverUp l.queue && s.linesFree l.vd [l.hdr.waitAddr] && (match s.conditionMet l with | .ok b => b | _ => false)) = true) ∧
    (let s := relaunch (fun l => { l with phase := .waiting, hdr := { l.hdr with waitKind := 2, waitAddr := 0x10400, waitVal := 1 } }) one
     (s.waitList 0).head?.any (fun l => s.serverUp l.queue && s.linesFree l.vd [l.hdr.waitAddr] && (match s.conditionMet l with | .ok b => !b | _ => false)) = true ∧
     (s.waitList 0).head?.any (fun l => !(s.setDie 0 { s.die 0 with state := .resetting }).serverUp l.queue) = true) ∧
    (admitting.launch? 0).any (fun l => admitting.mayAdmit l && l.toAdmit == l.hdr.groupsOf && l.hdr.cohortSize == 1 && !l.hdr.persistent &&
      (admitting.admitOn l 0 0).isSome) = true ∧
    (let s := few 1 (admittingOn 1)
     (s.launch? 0).any fun l => s.mayAdmit l && decide (0 < s.capNow l 1 0) && (List.range 216).all fun c => s.capNow l 1 c == 0 || (s.admitOn l 0 c).isSome) = true ∧
    (let s := few 2 (admittingOn 0)
     (s.clusters.all fun x => x.grants.isEmpty) && s.poolOrder.2 == [0] &&
       ((s.offer 0).placeAll 0).groups.any fun g => g.vd == 0 && g.cluster == 0 && g.phase.placed && g.allTeams.any fun t => t.quadrant == 0) = true ∧
    ((admittingOn 0).cluster 0).grantOf 0 = none ∧ ((few 2 (admittingOn 0)).poolPlan.cluster 0).grants.isEmpty = false ∧
    [0, 1].all (fun w => let s : State := { admitting with clock := 9, vds := admitting.vds.map fun v => { v with sched0 := w } }
      (s.clusters.any fun c => c.grants.any (s.grantDue 0)) && (s.vds[0]?).any fun v => v.sched0.toNat % 256 == w.toNat) = true := by decide +kernel
/-- A group that is admitted starts at ENTRY at U (R71). -/
theorem test_admit : ((run (.groupAdmit 0 0) admitting).groups.map fun g => g.teams.map fun t => t.frags.map fun f => (f.pc.toNat, f.priv)) = [[[(0x10000, false)]]] := by
  decide +kernel

/-- A grant lasts for QEFF us of 1,200 clocks (R370, R373). -/
theorem test_quantum : (let s := few 1 (admittingOn 0); ((s.poolPlan.settleGrant s 0 0).cluster 0).grants.map (·.until_)) =
    [one.clock + 1200 * (one.vd 0).qeff.toNat] := by decide +kernel

/-- The placed group away from its cluster, which holds a grant. -/
def away (p : GroupPhase) : State :=
  let s := edit (fun h => { h with group := { h.group with phase := p }, frag := { h.frag with region := some (Snapshot.mk 0x10000#48 1#1024 [] [] 0#24 1#32 false) } }) one
  { s with clusters := admitting.clusters }
theorem witness_preemption :
    (let s : State := { one with vds := one.vds.map fun v => { v with quiesce := true } }
     (s.shaped && s.numbered && (s.vd 0).quiesce && ((s.cluster 0).preempts.all fun p => p.vd != 0) && s.groups.all fun g => ((s.headerOf g).map (·.expect)).getD 0 == 0) = true) ∧
    (let s : State := { one with clusters := one.clusters.map fun c => { c with preempts := [{ vd := 0, level := none, quads := [0], choice := .drain, deadline := 0 }] } }
     (s.shaped && s.numbered && (s.cluster 0).preempts.any fun p => decide (p.choice = .drain ∧ p.deadline ≤ s.clock ∧ p.level = none)) = true) ∧
    (let s := away .saved
     (s.shaped && s.groups.all fun g => (s.launchOf g).any fun l => !g.refused && s.mayReturnTo g l 0 && g.untagged.isEmpty && (s.resume { g.restoreTags with since := s.clock - g.since } l.hdr 0).isSome) = true) ∧
    (let s : State := { away .saved with groups := (away .saved).groups.map fun g => { g with untagged := [(0, 5)] } }
     (s.shaped && s.groups.all fun g => (s.launchOf g).any fun l => !g.refused && s.mayReturnTo g l 0 &&
       (s.resume { g.restoreTags with since := s.clock - g.since } l.hdr 0).isSome) = true) ∧
    [false, true].all (fun acquired =>
     let s : State := { away .discarded with groups := (away .discarded).groups.map fun g => { g with teams := g.teams.map fun t =>
       { t with frags := t.frags.map fun f => { f with region := f.region.map fun r => { r with acquired := acquired } } } } }
     (s.groups.all fun g => g.teams.all fun t => t.live != 0#1024 && t.frags.all fun f => f.region.any fun r => r.acquired == acquired) &&
     (s.shaped && s.groups.all fun g => (s.launchOf g).any fun l => s.mayReturnTo g l 0 &&
       (s.resume { g with teams := g.teams.map (·.rebuild l.hdr), mem := [], memPoison := [], since := s.clock, restarted := true,
                          barriers := g.barriers.map fun b => { b with arrived := 0 } } l.hdr 0).isSome)) = true ∧
    (away .saved).oracle.headD 0 ≠ 1 ∧ ({ away .saved with oracle := [1] } : State).oracle.headD 0 = 1 := by decide +kernel

/-! ### Witnesses: servers and the matrix unit -/

/-- The queue of cluster 0's engine with its descriptor at 0x10800: QBASE 0x10400, LOG2N 4, WIDX 1, RIDX 0 (R158). -/
def engine : QueueId := { kind := .engine, unit := 0, ctx := 0, vd := 0, desc := 0x10800 }
def serving (ready : Bool) : State :=
  let s := queued engine (packet 0) [if ready then 0x81#8 else 1#8]
  { s with queues := s.queues.map fun x => { x with head := none }, mem := s.mem.write 0x10800 (leBytes 64 (0x10400 + 4 * 2 ^ 48 + 2 ^ 96)) }
def answers {α β : Type} (e : Except α β) (p : β → Bool) : Bool := match e with | .ok b => p b | .error _ => false
theorem witness_slot_take : [true, false].all (fun ready => let s := serving ready
    (s.queue? engine).any fun x => s.serves x && !x.halted && x.head.isNone && x.miss.isNone && answers (s.desc 0 0x10800) fun d =>
      let vas := [engine.desc, d.slotAt d.ridx]
      let s' := s.charged engine vas
      d.ridx != d.widx && s.reaches engine vas && s'.descOk engine d && answers (s'.readVa 0 (d.slotAt d.ridx) 64) fun bs => bitOf (leValue bs) 7 == ready &&
        answers (s'.writeVa 0 (d.slotAt d.ridx) [BitVec.ofNat 8 (leValue bs % 256 - 128)]) fun s1 =>
          answers (s1.writeVa 0 (engine.desc + 16) (leBytes 4 ((d.ridx + 1) % 2 ^ 32))) fun _ => true) = true := by decide +kernel

/-- A packet of cluster 0's engine that runs, and has no code yet. -/
def runs (s : State) (k : Packet → Bool) : Bool :=
  s.canonical && !s.serverStopped engine && s.side.isEmpty && (s.nextWoken engine).isNone && (s.queue? engine).any fun x => x.miss.isNone && x.head.any fun p => p.started && p.code.isNone && k p
/-- A step of that packet moves it, and may reach its lines; what holds once its tokens are taken. -/
def moves (s : State) (p : Packet) (lines : State → Packet → Packet → List Nat) (r : PacketStep) (k : State → Bool) : Bool :=
  r.2.1.progress != p.progress && s.reaches engine (lines s p r.2.1) && k (s.charged engine (lines s p r.2.1))
/-- The layout of four bytes at 0x10400 (R164), and a COPY of it to 0x10600, to window 1, and to the slot of the ring at 0x10A00. -/
def layout : Nat := 0x10400 + 2 ^ 56 + 4 * 2 ^ 64 + 2 ^ 144
def slotRing : RingSlot := { vd := 0, window := none, addr := 0x10A00, slot := 0 }
def ringed (s : State) : State := { s with mem := s.mem.write 0x10A00 (leBytes 32 (0x10B00 + 4 * 2 ^ 48 + 2 ^ 64 + 2 ^ 96)) }
def copying (bits : Nat) : State := ringed (windowed (queued engine { packet (1 + bits) with layoutA := layout, ring := some slotRing } [1#8]))
def toMemory : Nat := 0x10600 * 2 ^ 208
def toWindow : Nat := 2 ^ 202 + 2 ^ 204
def toSlot : Nat := 2 ^ 203
theorem witness_copy : [toMemory, toWindow, toSlot].all (fun bits => let s := copying bits
    runs s fun p => p.type == 1 && !p.shadow && moves s p (State.copyReach engine) (State.copyStep engine 3 s p) fun t => answers (t.copyDest engine p) fun d =>
      let m := gather (t.copyElem 0 p) p.dsize 0 3
      m.stop.isNone && m.count == 3 && (t.deposit d.1 false (d.2 + 0) p.dsize 0 m).toOption.isSome) = true := by decide +kernel
/-- The COPY with SHADOW, into the dual-backed first 2 MiB (R170). -/
def shadowing : State := { copying (toMemory + 2 ^ 201) with vds := published.vds }
theorem witness_shadow_copy : runs shadowing (fun p => p.type == 1 && p.shadow && p.progress == 0 &&
    moves shadowing p (State.copyReach engine) (State.copyStep engine 0 shadowing p) fun t => answers (t.copyDest engine p) fun d =>
      answers (t.inDual 0 d.2 (p.elements * p.dsize)) (fun b => b) && (gather (t.copyElem 0 p) p.dsize 0 p.elements).stop.isNone) = true := by decide +kernel
def multicasting : State := windowed (queued engine { packet (4 + 1 * 2 ^ 208) with layoutA := layout, receivers := [{ vd := 0, window := some (0, 1), addr := 0, slot := 0 }] } [1#8])
def marking (mva : Nat) : State := queued engine (packet (7 + mva * 2 ^ 128 + 99 * 2 ^ 192)) []
theorem witness_mcast_and_mark :
    runs multicasting (fun p => p.type == 4 && (multicasting.group? 0).any (fun g => (g.window? p.dwnum).isSome) &&
      moves multicasting p (fun s p p' => s.copyLines 0 p p.progress p'.progress) (State.mcastStep engine 0 multicasting p) fun t =>
        (gather (t.copyElem 0 p) p.dsize 0 p.elements).stop.isNone) = true ∧
    [0, 0x10600].all (fun mva => let s := marking mva
      runs s fun p => p.type == 7 && s.earlierDone engine p && bitsOf p.bits 128 48 == mva && p.progress == 0 && s.reaches engine [mva] &&
        (mva == 0 || (s.writeVa 0 mva (leBytes 8 99)).toOption.isSome && ((s.charged engine [mva]).writeVa 0 mva (leBytes 8 99)).toOption.isSome)) = true := by
  decide +kernel
/-- FILLA and FILLB of a panel of one element, into the FIFO and into the slot of the ring. -/
def filling (type : Nat) (slot : Bool) : State :=
  let s := ringed (queued engine { packet (type + (if slot then 2 ^ 195 else 0) + 1 * 2 ^ 196 + 2 ^ 201 + 2 ^ 207) with
    layoutA := layout + 8 * 2 ^ 48, ring := some slotRing } [])
  { s with groups := s.groups.map fun g => { g with core := some (placedTeam coreTid) } }
theorem witness_fill : [2, 3].all (fun t => let s := filling t false
      runs s fun p => p.type == t && !p.dslot && decide (p.progress < p.npanel) && (s.panelRead 0 p).toOption.isSome &&
        (s.group? 0).any (fun g => g.fifoLive && decide (g.munit.fa.length < 16) && decide (g.munit.fb.length < 16)) &&
        moves s p (State.fillReach engine) (State.pushPanels engine 1 s p) fun u => (u.panelRead 0 p).toOption == (s.panelRead 0 p).toOption) = true ∧
    [2, 3].all (fun t => let s := filling t true
      runs s fun p => p.type == t && p.dslot && decide (0 < p.rows * p.kcnt ∧ p.progress < p.npanel) &&
        moves s p (State.fillReach engine) (State.slotPanels engine 1 s p) fun u => answers (u.slotData p) fun d =>
          let m := gather (fun e => u.panelElem 0 p true (e / 1) (e % 1 / p.kcnt) (e % p.kcnt)) p.panelSize 0 1
          decide (p.rows * p.kcnt = 1) && m.stop.isNone && (u.deposit d.1 false (d.2 + 0) p.panelSize 0 m).toOption.isSome) = true := by decide +kernel
/-- CKPT of 128 bytes to second-tier memory, which a second page maps (R178); its digest, and a marker that holds it. -/
def checkpointing : State :=
  let s := queued engine (packet (6 + 0x10000 * 2 ^ 128 + 128 * 2 ^ 176 + 0x200000 * 2 ^ 224 + 0x40000 * 2 ^ 272)) []
  { s with mem := s.mem.write 0x3008 [0x17#8] }
def chunkDigest : List Byte := match checkpointing.chunkRead 0 0x10000 128 with | .ok r => sha256 r.1 | .error _ => []
def checkpointed : State := { checkpointing with companion := Memory.write [] 65536 (chunkDigest ++ [0#8, 0#8, 1#8]) }
def poisonedChunk : State := { checkpointing with poisoned := [(.device, 0x10000, 5#32)] }
/-- A chunk of it is read and its digest written, with the marker that is found and the poison. -/
def digests (s : State) (valid bad : Bool) : Bool :=
  runs s fun p => p.type == 6 && decide (p.progress < p.ckChunks) && moves s p (State.ckptReach engine) (State.ckptChunks engine 1 s p) fun t =>
    answers (t.place 0 p.ckDst .write) (fun pl => decide (pl.space = .tier2)) && answers (t.place 0 (p.ckMark 0) .write) (fun pl => decide (pl.space = .tier2)) &&
    answers (t.chunkRead 0 p.ckSrc (min 65536 p.ckLen)) fun r => r.2.isEmpty == !bad &&
      answers (t.writeVa 0 p.ckDig (sha256 r.1)) fun s1 => answers (s1.readVa 0 (p.ckMark 0) 64) fun m =>
        (m.take 32 == sha256 r.1 && leValue ((m.drop 32).take 2) == p.ckSet && (m.getD 34 0#8).getLsbD 0) == valid &&
        (valid || answers (s1.writeVa 0 p.ckDst r.1) fun s2 =>
          let u := r.2.foldl (fun u k => u.taintAt { vd := 0, window := none, addr := 0, slot := 0 } false (p.ckDst + k) 1) s2
          (u.writeVa 0 (p.ckMark 0) (sha256 r.1 ++ leBytes 2 p.ckSet ++ [1#8] ++ List.replicate 29 0#8)).toOption.isSome)
theorem witness_checkpoint : digests checkpointing false false = true ∧ digests checkpointed true false = true ∧ digests poisonedChunk false true = true := by
  decide +kernel
/-- A packet that is done, with a ring of one slot in a window, without one, with a receiver, and a COPY under SHADOW. -/
def done : State :=
  let s := queued engine { packet 1 with code := some 2, ring := some { vd := 0, window := some (0, 1), addr := 0, slot := 0 } } []
  { s with groups := awaiting.groups }
def doneAs (f : Packet → Packet) (s : State) : State := { s with queues := s.queues.map fun x => { x with head := x.head.map f } }
def completes (s : State) : Bool :=
  !s.serverStopped engine && s.side.isEmpty && (s.queue? engine).any fun x => x.pending.isEmpty && x.miss.isNone && x.head.any fun p => p.started && p.code == some 2 &&
    p.type != 7 && s.reaches engine (s.completeLines engine p) && (s.nextWoken engine).isNone && answers ((s.charged engine (s.completeLines engine p)).storeShadow engine p) fun d =>
      let p1 := d.2
      let sent := p1.receivers.foldl (fun t r => match t.completeSlot engine r 2 p1.flags p1.tag p1.done p1.fva with
        | .ok t => t
        | .error (b, _, wr) => t.logBad engine wr b) d.1
      p1.flags == 0 && p1.ring.all fun r => (sent.completeSlot engine r 2 p1.flags p1.tag p1.done p1.fva).toOption.isSome
theorem witness_packet_complete : completes done = true ∧ completes (doneAs (fun p => { p with ring := none }) done) = true ∧
    completes (doneAs (fun p => { p with ring := none, receivers := p.ring.toList }) done) = true ∧ completes (doneAs (fun p => { p with reported := true }) done) = true ∧
    completes (doneAs (fun p => { p with code := some 2, ring := none, progress := 4, done := 4 }) shadowing) = true := by decide +kernel
/-- The status is DONE and CPTR advances past the slot (R181, R182). -/
theorem test_packet_complete : let s := run (.packetComplete engine) done
    (s.byteAt (.scratch 0) 52, s.byteAt (.scratch 0) 16) = (2#8, 1#8) := by decide +kernel

/-- The context with one command in its unit's queue, and a partner group with a context. -/
def commanded (i : Instr) (s : State) : State := run i s
def fed (s : State) : State :=
  let panel : Panel := { cls := 0, eb := 0, els := List.replicate 512 0 }
  edit (fun h => { h with group := { h.group with munit := { h.group.munit with fa := [panel], fb := [panel] } } }) s
def corePair : State :=
  { core with groups := core.groups ++ (core.groups.map fun g => { g with gid := 1, f2 := 1, cluster := 1 }), nextGroup := 2,
              launches := pair.launches }
def atUnit (s : State) (k : Group → Cmd → Bool) : Bool :=
  s.shaped && (s.group? 0).any fun g => g.phase.placed && g.munit.queue.head?.any fun c => c.miss.isEmpty && c.waits.isEmpty && !s.beforeCmd g c && k g c
theorem witness_matrix_unit :
    atUnit (commanded (.mainit false 0#2 7#3 5#12) core) (fun g c => c.what == .init 0 7 5 && decide (7 < g.munit.tiles.length) &&
      (match (commanded (.mainit false 0#2 7#3 5#12) core).performCmd g c with | .done .. => true | _ => false)) = true ∧
    atUnit (commanded (.mainit false 2#2 6#3 0#12) core) (fun g c => c.what == .init 2 6 0 && decide (6 + 1 < g.munit.tiles.length)) = true ∧
    atUnit (commanded (.mma false 3#3) core) (fun g c => (match (commanded (.mma false 3#3) core).performCmd g c with
      | .trap s1 _ => (s1.group? 0).map (·.munit) == some g.munit
      | _ => false)) = true ∧
    atUnit (commanded (.mma false 7#3) (fed (run (.matrixCommandPerform 0) (commanded (.mainit false 0#2 7#3 5#12) core)))) (fun g c => c.what == .mma 7 &&
      (g.munit.tileBad 7).isNone && (g.munit.fa.zip g.munit.fb).all (fun p => p.1.cls == (g.munit.tile 7).cls && p.2.cls == (g.munit.tile 7).cls && p.1.els.length == 512 &&
        productTerm (decodeNum c19 (p.1.els.getD 511 0)) (decodeNum c19 (p.2.els.getD 0 0)) (g.munit.tile 7).w == .fin 0) &&
      (g.munit.accs 7)[1023]?.any fun e => !e.ovf && decide (-((2 ^ (e.g - 1) : Nat) : Int) ≤ e.value + 0 ∧ e.value + 0 < ((2 ^ (e.g - 1) : Nat) : Int))) = true := by
  decide +kernel
/-- A matrix instruction outside a handler while commands are held. -/
def holding : State :=
  edit (fun h => { h with group := { h.group with munit := { h.group.munit with held := h.group.munit.queue, queue := [] } } }) (run (.mdrop false 0#3) core)
theorem witness_held : (matrixPasses (.mdrop false 1#3) holding && holding.here.any fun h => h.holdsNew && h.active != 0#1024) = true := by decide +kernel
/-- A tile is drained to the partner: into a tile like it, and into an empty one. -/
def draining (same : Bool) : State :=
  let s := run (.matrixCommandPerform 0) (commanded (.mainit false 0#2 7#3 5#12) corePair)
  let s := if same then { s with groups := s.groups.map fun g => if g.gid = 1 then { g with munit := (((s.group? 0).map (·.munit)).getD g.munit) } else g } else s
  commanded (.mdrainp false 7#3 7#3) s
theorem witness_peer_arrival : matrixPasses (.mdrainp false 0#3 1#3) corePair = true ∧ (corePair.here.any fun h => (corePair.partner h.group).isSome) = true ∧
    [true, false].all (fun same => let s := draining same
      s.shaped && (s.group? 0).any fun g => (s.group? 1).any fun p => g.phase.placed && (s.sends g).any (fun x => x.2 == (7, 7)) &&
        (s.partner g).any (fun q => q == some p) && p.core.any (fun t => t.live != 0#1024) && p.phase != .discarded && decide (7 < p.munit.tiles.length) &&
        ((p.munit.tileBad 7).isNone && decide ((p.munit.tile 7).w = (g.munit.tile 7).w ∧ (p.munit.tile 7).cls = (g.munit.tile 7).cls ∧ (p.munit.tile 7).role = (g.munit.tile 7).role)) == same &&
        decide ((p.munit.tile 7).w = (g.munit.tile 7).w) == same) = true := by decide +kernel

/-! ### Witnesses: survival, translation, partitions, trust -/

/-- The started package with other survival fields. -/
def withSv (f : Survival → Survival) : State := { one with sv := f one.sv }
/-- Region 0 MIGRATING, with its first stripe not locked, or locked. -/
def moving (locked : List Nat) : State := withSv fun v => { v with locked := locked, regions := [{ one.region 0 with state := .migrating, nspread := 1 }] }
def dirtied : State := run (.lineRequest 0) storing
/-- Channel 383 has raised n ALERTs. -/
def alerted (n : Nat) : State := withSv fun v => { v with alerts := List.replicate n (383, one.clock) }
theorem witness_survival_events :
    dirtied.placeless 0x10200 = false ∧
    (dirtied.dirty.find? fun d => decide (d.space = .device) && d.addr == 0x10200).isSome = true ∧ 0x10200 < 2 ^ 48 ∧ 0x10200 % 128 = 0 ∧ dirtied.sv.handoffs = [] ∧
    ({ dirtied with sv := { dirtied.sv with handoffs := [(0x10200, 0, 1)] } } : State).sv.handoffs.any (fun x => x.1 == 0x10200) = true ∧
    ((run (.writeBack 0x10200 false) dirtied).sv.deltas.map (·.waits)) = [[16, 17]] ∧
    ((run (.checkDelta 0) (run (.writeBack 0x10200 false) dirtied)).sv.deltas.map (·.waits)) = [[17]] ∧
    [[], [0]].all (fun l => decide (((moving l).region 0).state = .migrating) && (moving l).sv.selfRefresh.isEmpty && (moving l).sv.locked.contains (stripeOf 0) == !l.isEmpty &&
      !(moving l).stripeBusy 0 && ((moving l).toHand ((moving l).region 0) 0).isEmpty && (moving l).sv.handoffs.isEmpty && decide (((moving l).region 0).cursor + 1 < 131072)) = true ∧
    ((withSv fun v => { v with handoffs := [(0x10200, 0, 1)] }).sv.handoffs.find? fun x => x.1 == 0x10200) = some (0x10200, 0, 1) := by decide +kernel
/-- The last check line of the last region in use, one bad symbol of a data line, and the last ALERT but one of a retirement. -/
theorem witness_patrol_and_alerts :
    [0, 17, 2503 * 2359296 - 1].all (fun l => decide (l < 4096 * 131072 * 18 ∧ (one.region (l / 18 / 131072)).state ≠ .retired) && !one.stripeLineBlocked (2048 * (l / 18)) (l % 18)) = true ∧
    one.unhurt = true ∧ one.nextScrub one.sv.scrubPos = some 0 ∧ one.nextScrub 1 = some 1 ∧
    (withSv fun v => { v with scrubPos := 2503 * 2359296 - 1 }).nextScrub (2503 * 2359296 - 1) = some (2503 * 2359296 - 1) ∧ one.nextScrub (2503 * 2359296) = none ∧
    (18, false) ∈ (withSv fun v => { v with weak := [(18, false)] }).sv.weak ∧ (withSv fun v => { v with weak := [(18, false)] }).dirty = [] ∧
    stored.outstanding 0 = true ∧ assocGet stored.sv.retries 0 0 = 0 ∧ one.isRetired (.channel (383 / 32) (383 % 32)) = false ∧
    [6, 7].all (fun n => (alerted n).isRetired (.channel (383 / 32) (383 % 32)) == false &&
      ((alerted n).sv.alerts.filter fun a => decide ((alerted n).clock < a.2 + 1200000000) && a.1 == 383).length == n) = true ∧
    (withSv fun v => { v with stale := [5] }).sv.stale = [5] ∧ one.sv.deltas = [] ∧
    one.epochDue = false ∧ ({ one with clock := 2 ^ 17 } : State).epochDue = true := by decide +kernel
/-- Region 0 of the secure world. -/
def secured : State := withSv fun v => { v with regions := [{ one.region 0 with world := true }] }
theorem witness_survival_commands : one.sv.busy = false ∧ (withSv fun v => { v with busy := true }).sv.busy = true ∧ one.svArg 0 = 0 ∧ one.sv.retired = [] ∧
    [1, 2, 3, 4, 7].all (fun op => (svUnit op 0).any fun m => !one.isRetired m) = true ∧ svUnit 7 11 = some (.stack 11) ∧ svUnit 3 12 = none ∧
    [1, 2, 3, 4].all (fun op => (svUnit op 0).any fun m => !one.unitSecure m && (withSv fun v => { v with retired := [m] }).isRetired m) = true ∧
    [2, 3].all (fun op => (svUnit op 0).any fun m => secured.unitSecure m) = true ∧
    (let s : State := { secured with sv := { secured.sv with args := [127#32, 1#32] } }
     s.svArg 0 + s.svArg 1 ≤ 524288 ∧ s.sv.regions.any (fun r => r.world && decide (r.num * 128 < s.svArg 0 + s.svArg 1 ∧ s.svArg 0 < (r.num + 1) * 128)) = true) ∧
    secured.svArg 0 = 0 ∧ (secured.region 0).world = true ∧ secured.sv.regions.any (fun r => r.world && !((secured.spread r.spread).excludes.any (unitIn (.stack 0)))) = true ∧
    one.sv.regions.all (fun x => !x.world) = true ∧
    MemUnit.stack 0 ∈ (withSv fun v => { v with retired := [.stack 0] }).sv.retired ∧ (one.die 4).state = .trusted ∧
    (one.region 0).state ≠ .retired ∧ one.sv.regions.all (fun r => !r.short) = true ∧ one.svArg 0 + one.svArg 1 ≤ 524288 := by decide +kernel

/-- Device 0 changed. -/
def withVd (f : VDev → VDev) (s : State) : State := s.setVd 0 (f (s.vd 0))
/-- A page request on its way, with its waiters, and a reply that names it, with ACTION 0 or 1. -/
def replied (deny : Bool) (ws : List Waiter) (s : State) : State :=
  withVd (fun v => { v with rqcfg := 0x44#32, rpqw := 1#32, pageReqs := [{ rid := 0, die := 0, unit := 1, image := [], written := true, waiters := ws }] })
    { s with host := if deny then Memory.write [] (VDev.base (one.vd 0).rpq + 3) [1#8] else [] }
def answered (deny : Bool) (ws : List Waiter) (s : State) (k : State → Bool) : Bool :=
  let v := (replied deny ws s).vd 0
  let bits := (replied deny ws s).host.value (VDev.base v.rpq + 16 * (v.rpqr.toNat % 2 ^ bitsOf v.rqcfg.toNat 4 4)) 16
  v.rpqr != v.rpqw && ((v.pageReqs.find? fun r => r.written && r.rid == bitsOf bits 0 16 && r.die == bitsOf bits 16 8).any fun r => r.waiters == ws) &&
    bitsOf bits 26 102 == 0 && bitsOf bits 24 2 == (if deny then 1 else 0) && k (replied deny ws s)
/-- The request of a store, that a miss of the second stage holds. -/
def heldLine (k : Req → List Waiter → State → Bool) : Bool := stored.reqs.head?.any fun r => k r [.line r 0x200000] { stored with reqs := [] }
def fetching : State := edit (fun h => { h with frag := { h.frag with park := .fetch 0x210000 } }) one
def waitingOutside : State := { one with outside := [{ vd := 0, what := .aperture 0x200000 (.read 4), miss := some (0, 1) }] }
theorem witness_page_replies :
    answered false [] one (fun _ => true) = true ∧
    heldLine (fun r ws s => answered false ws s fun t => r.action != .ptw && (match t.popChoice.heldAnswer r with | .ok _ => true | _ => false)) = true ∧
    heldLine (fun r ws s => answered true ws s fun t => t.shaped && r.action == .write && (t.outOf r).any fun o =>
      ((t.group? r.gid).bind fun g => g.team? r.tid).any fun tm => tm.faults.all fun x => x.op != o.order) = true ∧
    [false, true].all (fun deny =>
      answered deny [.frag one.cur] fetching (fun t => t.shaped && (t.agent? t.cur).any fun a => a.2.2.park == .fetch 0x210000) &&
      answered deny [.matrix 0] (run (.mdrop false 0#3) core) (fun t => (t.group? 0).any fun g => !g.munit.queue.isEmpty) &&
      answered deny [.queue engine] { serving true with queues := (serving true).queues.map fun x => { x with miss := some (0, 1) } } (fun t =>
        t.side.isEmpty && (t.launches.all fun l => l.queue != engine) && (t.queue? engine).any fun x => x.miss == some (0, 1) && decide (x.missFor = .slot) && !x.halted) &&
      answered deny [.count engine] (serving true) (fun _ => true) &&
      answered deny [.qstate engine] (serving true) (fun t => (t.queue? engine).isSome) &&
      answered deny [.outside 0] waitingOutside (fun t => t.outside.any fun x => x.vd == 0 && x.miss == some (0, 1))) = true ∧ (one.vd 0).rpqr = (one.vd 0).rpqw := by
  decide +kernel
/-- Device 0 with an image staged for the publish entries, of one 2 MiB unit at GPA 0, beside the publish entry of that unit, and with an MBZ bit. -/
def staging (words : List Word) (pub : Bool) : VDev :=
  { (one.vd 0) with pubstage := words, pubs := if pub then (one.vd 0).pubs.set 1 (BitVec.ofNat 128 (2 ^ 64)) else (one.vd 0).pubs }
theorem witness_translation_events :
    rangeMbz (stagedBits (one.vd 0).rtstage).toNat = true ∧ (one.vd 0).rtBusy = none ∧ pubMbz (stagedBits (one.vd 0).pubstage).toNat = true ∧ (one.vd 0).pubBusy = false ∧
    ((run (.rangeUpdate 0 0#32) stored).vd 0).rtBusy = some [0] ∧ stored.outstanding 0 = true ∧ ((run (.rangeUpdate 0 0#32) one).vd 0).rtBusy = some [] ∧
    (let v := staging [0#32, 2#32, 1#32, 0#32] false
     let e := stagedBits v.pubstage
     rangeLen e = 1 ∧ v.ranges[0]?.any (fun r => decide (rangeGbase r ≤ rangeGbase e ∧ rangeGbase e + rangeLen e ≤ rangeGbase r + rangeLen r)) = true ∧
     (List.range 8).all (fun k => !overlaps e (v.pubs.getD k 0#128)) = true) ∧
    (let v := staging [0#32, 2#32, 1#32, 0#32] true
     pubMbz (stagedBits v.pubstage).toNat = true ∧ overlaps (stagedBits v.pubstage &&& ~~~BitVec.ofNat 128 (2 ^ 96)) (v.pubs.getD 1 0#128) = true) ∧
    pubMbz (stagedBits (staging [0#32, 2#32, 1#32, 2#32] false).pubstage).toNat = false := by decide +kernel
theorem witness_partition_events :
    one.clusters[215]?.isSome = true ∧ ownerIn 0x80808080#32 3 = none ∧ ownerIn 0x3F808080#32 3 = some 63 ∧ one.quadrantHeld 0 0 = true ∧ one.quadrantHeld 215 3 = false ∧
    banksIn 0x0030C30C#32 3 = (36, 12) ∧ (bitsOf 0 0 6 ≠ 48) ∧ (one.vds[0]?).isSome = true ∧ 4 ≤ 6 % 8 ∧ 6 % 8 < 7 ∧ bitsOf 0x1200 9 4 = 9 ∧ (one.vd 0).l2Busy = false ∧
    (let s := run (.vdl2Write 0 0x1200#32) one; (s.vd 0).l2Busy = true ∧ s.sv.handoffs = [] ∧ s.queues.all (fun x => !x.rewritten) = true) ∧ (one.vd 0).resetDone = true ∧
    one.creationRefused 1 { sched0 := 0x00010001#32, sched1 := 0x00000001#32, save0 := 0#32, save1 := 0#32, save2 := 0xFFFF#32, cls := 0#2, pool := true } = false ∧
    (withVd (fun v => { v with created := false }) { one with groups := [] }).groups = [] ∧ one.trust.keyBusy = false ∧
    bitsOf 0x103 8 2 = 1 ∧ bitsOf 0x23F 8 2 = 2 ∧ bitsOf 0x23F 0 6 = 63 ∧ (one.vds.all fun v => v.ranges.all fun e => rangeLen e == 0 || rangeKeyid e != 63) = true ∧
    (one.vds.any fun v => v.ranges.any fun e => rangeLen e != 0 && rangeKeyid e == 0) = true ∧ bitsOf 0x200 0 6 = 0 ∧ (one.vd 0).pol.getLsbD 3 = false ∧
    one.unhurt = true := by
  decide +kernel
/-- A die changed. -/
def withDie (n : Nat) (f : Die → Die) : State := one.setDie n (f (one.die n))
theorem witness_trust_events :
    (State.reset.trust.dies[15]?).map (·.state) = some .unattested ∧ ((run (.attestation 15 .pass) State.reset).die 15).state = .attesting ∧
    (one.die 15).state = .trusted ∧ (one.die 1).state = .trusted ∧ (one.groups.all fun g => g.cluster / 72 != 1) = true ∧
    ((run (.dieReset 1#32) one).die 1).state = .resetting ∧
    one.trust.links[59]? = some { LinkDir.reset with keyed := true } ∧ 1 ≤ one.vds.length ∧ 15 < one.trust.dies.length ∧ one.trust.hold = false ∧
    (run (.thermalEvent 0 116) one).trust.hold = true ∧
    ((run (.thermalEvent 0 116) one).trust.dies.zipIdx.all fun p => p.2 == 0 || decide (p.1.temp < 95)) = true ∧
    ({ one with trust := { one.trust with links := one.trust.links.set 0 { keyed := true, kix := true, oldKey := false, flits := 5, unacked := 3, oldUnacked := 2, fails := List.replicate 7 0 } } } : State).linkDir 0 0
      = { keyed := true, kix := true, oldKey := false, flits := 5, unacked := 3, oldUnacked := 2, fails := List.replicate 7 0 } ∧
    [0, 2].all (fun n => (({ one with trust := { one.trust with links := one.trust.links.set 0 { LinkDir.reset with keyed := true, oldKey := true, oldUnacked := n } } } : State).linkDir 0 0).oldUnacked == n) = true ∧
    (run (.thermalEvent 0 116) one).queues.all (fun x => !x.rewritten) = true := by decide +kernel
/-- A W2 device to moor, whose region lies on the units in service; and on a moored spread. -/
def gathering : State := withVd (fun v => { v with cls := 2, moor := .mooring, quiesced := true }) one
def gatheredThere : State :=
  let u := run (.moorComplete 0) gathering
  { u with sv := { u.sv with regions := u.sv.regions.map fun r => { r with state := .normal, spread := r.nspread } } }
/-- Its 18 channels enter self-refresh when the device is MOORED, two on each of nine stacks (R436). -/
theorem test_self_refresh : (run (.moorComplete 0) gatheredThere).sv.selfRefresh = [0, 1, 32, 33, 64, 65, 96, 97, 128, 129, 160, 161, 192, 193, 224, 225, 256, 257] := by
  decide +kernel
theorem witness_mooring : (one.vd 0).created = true ∧ (one.vd 0).moor = .running ∧ (one.vd 0).quiesce = false ∧
    ((run (.quiesceRequest 0) one).vd 0).quiesce = true ∧ ((run (.quiesceRequest 0) one).vd 0).moor = .running ∧ 0 ∉ (run (.quiesceRequest 0) one).trust.held ∧
    0 ∈ (run (.thermalEvent 0 116) one).trust.held ∧
    (let s := run (.moor 0 0x10#32) { one with groups := [] }; (s.vd 0).moor = .mooring ∧ (s.vd 0).quiesced = true ∧ (s.vd 0).cls = 0 ∧
      ((run (.moorComplete 0) s).vd 0).moor = .moored ∧ ((run (.wake 0 1#32) (run (.moorComplete 0) s)).vd 0).moor = .waking) ∧
    ((gathering.vd 0).regionsHeld gathering).all (fun n => decide ((gathering.region n).state ≠ .migrating)) = true ∧ gathering.gathered (gathering.vd 0) = false ∧
    fullSpare ≤ gathering.sv.spare ∧ (gathering.mooredRoom ((gathering.vd 0).regionsHeld gathering).length).isSome = true ∧
    gatheredThere.gathered (gatheredThere.vd 0) = true ∧ gatheredThere.sv.called = [] ∧ gatheredThere.reqs = [] ∧ (run (.moorComplete 0) gatheredThere).quiet 56 = true ∧
    (withVd (fun v => { v with cls := 1, moor := .mooring, quiesced := true }) one).vd 0 = { one.vd 0 with cls := 1, moor := .mooring, quiesced := true } := by decide +kernel
/-- Accesses through an aperture: one that is performed, one that misses, one whose line is locked; and an append to the queue at 0x10800, full or not. -/
theorem witness_apertures :
    (3 ∉ [0, 15]) ∧ one.canonical = true ∧ one.outsideUp = true ∧ (one.setDie 3 { one.die 3 with state := .resetting }).outsideUp = false ∧ (0x10240 % 128 + 4 ≤ 128) ∧
    [Access.read, .write].all (fun k => decide ((one.vd 0).range 0x10240 k = .ok 0x10240 0)) = true ∧ (one.vd 0).range 0x40000000000 .read = .miss ∧
    (one.vd 0).dual? 0x10240 = none ∧ one.worldDenies 0 (line 0x204) = false ∧ one.lineBlocked (line 0x204) = false ∧
    (withSv fun v => { v with locked := [stripeOf 0x10200] }).lineBlocked (line 0x204) = true ∧ one.unhurt = true ∧ one.wrongKey (line 0x204) = false ∧
    (one.region (regionOf (128 * 0x204))).state ≠ .retired ∧ one.readSyndrome (line 0x204) = none ∧ (one.vd 0).rtBusy = none ∧ 3 < (one.vd 0).rtstage.length ∧
    (waitingOutside.outside.any fun x => waitingOutside.holdsBack x 0 (.aperture 0x200040 (.write [1#8]))) = true ∧
    (waitingOutside.outside.all fun x => !waitingOutside.holdsBack x 0 (.aperture 0x10240 (.write [1#8])) && !waitingOutside.holdsBack x 0 (.append 0x10800 [])) = true := by decide +kernel
theorem witness_append : answers ((serving true).desc 0 0x10800) (fun d => !d.full && (serving true).linesFree 0 [0x10800, d.slotAt d.widx] &&
      answers ((serving true).place 0 (d.slotAt d.widx) .write) (fun _ => true) &&
      answers ((serving true).writeVa 0 (0x10800 + 12) (leBytes 4 ((d.widx + 1) % 2 ^ 32))) fun s1 => answers (s1.writeVa 0 (d.slotAt d.widx) (slotBytes [] false)) fun s2 =>
        answers (s2.writeVa 0 (d.slotAt d.widx) ((slotBytes [] true).take 1)) fun _ => true) = true ∧
    (let s : State := { serving true with mem := (serving true).mem.write 0x1080C (leBytes 4 16) }
     answers (s.desc 0 0x10800) fun d => d.full && s.linesFree 0 [0x10800, d.slotAt d.widx]) = true := by decide +kernel
/-- A cold start leaves the failing die quarantined; a package is warm after a warm start that completes (R437, R439). -/
theorem test_cold_start : (let s := run (.coldStart [5]) State.reset; ((s.die 5).state, (s.die 4).state, s.trust.cold)) = (.quarantined, .trusted, true) ∧
    (run (.warmStart [] true) one).trust.cold = false := by decide +kernel

end Sys2Proof.Tests
end

/-!
SUPPORT. The mode register (R77): what issuing an instruction of fixed latency, or raising a trap at issue, leaves in the state, and
with these what SETMODE and GETMODE do (R244, R245).
-/
namespace Sys2Proof.Machine

/-! ### Issuing an instruction of fixed latency that raises no trap of its own -/

/-- Where the checks pass, a plain instruction is its effect and the instruction boundary. -/
theorem Here.plain_ok {h : Here} {y : Bool} {u : Uses} {k : Here → Here} (hc : h.check u = none) :
    h.plain y u k = { k h with fresh := if h.readsFree u then h.fresh + 4096 else h.fresh, frag := (k h).frag.finish y } :=
  Here.run_ok hc rfl

/-- A plain instruction whose checks pass, and whose effect keeps the numbers of its fragment and team and the rest of its group,
changes the issuing team and fragment alone. -/
theorem State.put_plain_local {s : State} {h : Here} {y : Bool} {u : Uses} {k : Here → Here} (hs : s.shaped = true)
    (hh : s.here = some h) (hc : h.check u = none) (hg : (k h).group = { h.group with restarted := (k h).group.restarted })
    (ht : (k h).team.tid = h.team.tid) (hfs : (k h).team.frags = h.team.frags) (he : (k h).frag.entry = h.frag.entry)
    (hp : (k h).frag.part = h.frag.part) :
    ∃ h', Local s (s.put (h.plain y u k)) h h' ∧ h'.team = { (k h).team with frags := h'.team.frags } ∧
      h'.frag = (k h).frag.finish y ∧ h'.group.restarted = (k h).group.restarted := by
  rw [Here.plain_ok hc]
  exact ⟨_, State.put_local (State.numbered_of_here hs hh) hh hg ht hfs he hp, rfl, rfl, Group.setTeam_restarted ..⟩

/-- A plain instruction whose checks pass and whose effect is the shared write of a result writes that result and nothing else. -/
theorem State.put_plain_write {s : State} {h : Here} {y : Bool} {u : Uses} {k : Here → Here} {r words : Nat} {act : Mask}
    {sh : Shape} {f : Nat → Nat} (hs : s.shaped = true) (hh : s.here = some h) (hc : h.check u = none)
    (hk : k h = h.write r words act sh f) (hu : (r, words) ∈ u.writes) (hw : words = 1 ∨ words = 2) (hsound : Sound h words act sh f)
    (hsh : sh ≠ .g → act = h.team.live ∨ h.team.isCore = true) :
    ∃ h', Local s (s.put (h.plain y u k)) h h' ∧ OnlyRegs y h.team.fpctl h h' ∧ h'.team.cc = h.team.cc ∧
      Wrote y r words act f h h' := by
  obtain ⟨wg, -, -, wt, wf⟩ := Here.write_rest h r words act sh f
  rw [← hk] at wg wt wf
  obtain ⟨h', hl, ht, hf, hr⟩ := State.put_plain_local (y := y) hs hh hc (by rw [wg]) (by rw [wt]) (by rw [wt]) (by rw [wf]) (by rw [wf])
  have hdst := (Here.check_dst (State.here_shaped hs hh) hc hu hw).2
  refine ⟨h', hl, ⟨?_, ?_, by rw [hr, wg]⟩, by rw [ht, wt],
    Here.write_wrote hw hdst hsound hsh (by rw [ht, hk]) (by rw [ht, hk]) (by rw [hf, hk]; rfl)⟩
  · rw [ht, wt]
  · rw [hf, wf]; rfl

/-! ### A trap at issue -/

/-- The fault that a trap at issue records (R85). -/
def Here.faultAtIssue (h : Here) (act : Mask) (t : Trap) : PendFault :=
  { op := h.frag.order.getD h.team.nextOp, rank := t.rank, cause := t.cause,
    lanes := t.lanes.getD (if act = 0#1024 then h.frag.acting else act), addr := t.addr, detail := t.detail, pte := t.pte,
    pc := h.frag.pc, deferred := t.deferred, held := false, dest := t.dest, lines := none }

theorem mem_insertFault {l : List PendFault} {p q : PendFault} : q ∈ insertFault l p ↔ q = p ∨ q ∈ l := by
  induction l with
  | nil => simp [insertFault]
  | cons g l ih =>
    unfold insertFault
    split
    · simp
    · simp only [List.mem_cons, ih]; tauto

/-- A trap at issue records its fault and parks the fragment past the instruction; nothing else changes. -/
theorem State.put_raise_local {s : State} {h : Here} (act : Mask) (t : Trap) (hs : s.shaped = true) (hh : s.here = some h) :
    ∃ h', Local s (s.put (h.raise act t)) h h' ∧ h'.frag = { h.frag.finish false with park := .trap } ∧
      h'.team = { h.team with nextOp := h.team.nextOp + 1, faults := insertFault h.team.faults (h.faultAtIssue act t),
                              frags := h'.team.frags } :=
  ⟨_, State.put_local (State.numbered_of_here hs hh) hh rfl rfl rfl rfl rfl, rfl, rfl⟩

/-! ### Images of the mode register -/

/-- A field of the image holds a reserved value (R77). -/
def reservedImage (n : Nat) : Prop := 11 < n % 16 ∨ 4 < n / 2 ^ 10 % 8 ∨ 5 < n / 2 ^ 13 % 8 ∨ 6 < n / 2 ^ 20 % 8

theorem modeImageOk_iff (m : BitVec 23) : modeImageOk m = true ↔ ¬reservedImage m.toNat := by
  unfold modeImageOk reservedImage bitsOf
  simp only [Bool.and_eq_true, decide_eq_true_eq]
  omega

/-- The fields lie in the image's 23 bits. -/
theorem reservedImage_mod (n : Nat) : reservedImage (n % 2 ^ 23) ↔ reservedImage n := by
  unfold reservedImage
  omega

/-- The decoder's arm for the opcode of SETMODE. -/
theorem decode_setmode {w : Word} (hop : w.toNat / 2 ^ 24 % 128 = 0x0D) :
    decode w = accept (!w.getLsbD 23) (.setmode (yOf w) (w.extractLsb' 0 23)) := by
  have h : (opOf w).toNat = 0x0D := by simpa [opOf, Nat.shiftRight_eq_div_pow] using hop
  unfold decode
  rw [h]
  rfl

theorem decode_setmode_refuses {w : Word} (hop : w.toNat / 2 ^ 24 % 128 = 0x0D)
    (hw : reservedImage w.toNat ∨ w.getLsbD 23 = true) : ∃ e, decode w = .error e := by
  rw [decode_setmode hop]
  unfold accept
  cases hb : w.getLsbD 23 with
  | true => exact ⟨.mbz, rfl⟩
  | false =>
    have hm : modeImageOk (w.extractLsb' 0 23) ≠ true := by
      rw [ne_eq, modeImageOk_iff, not_not, BitVec.extractLsb'_toNat, Nat.shiftRight_zero, reservedImage_mod]
      exact hw.resolve_right (Bool.eq_false_iff.1 hb)
    exact ⟨.reservedLiteral, if_neg hm⟩

/-! ### SETMODE and GETMODE -/

/-- An instruction that names nothing and tests no guard passes the checks. -/
theorem Here.check_nameless (h : Here) (w : Word) : h.check { word := w, guard := false } = none := by
  simp [Here.check, Here.firstCheck, Here.hazard, Here.poisonRead]

theorem exec_setmode {s : State} {h : Here} (y : Bool) {m : BitVec 23} (hs : s.shaped = true) (hh : s.here = some h)
    (hm : modeImageOk m = true) :
    ∃ t h', exec (.setmode y m) s = .next t ∧ Local s t h h' ∧ h'.frag = { h.frag.finish y with mode := m.zeroExtend 24 } ∧
      h'.team = { h.team with frags := h'.team.frags } := by
  have hc : h.check { word := wordOf (.setmode y m), illop := !modeImageOk m, guard := false } = none := by
    rw [hm]; exact h.check_nameless _
  obtain ⟨h', hl, ht, hf, -⟩ := State.put_plain_local (y := y)
    (k := fun h => { h with frag := { h.frag with mode := m.zeroExtend 24 } }) hs hh hc rfl rfl rfl rfl rfl
  exact ⟨_, h', issue_here hh _, hl, hf, ht⟩

/-- The shape of one value for every lane of the mask. -/
def Here.acrossMask (h : Here) : Shape := if h.team.isCore ∨ h.frag.acting = h.team.live then .u else .g

theorem Here.acrossMask_ne_a (h : Here) : h.acrossMask ≠ .a := by
  unfold Here.acrossMask
  split <;> simp

theorem Here.acrossMask_ne_g {h : Here} (hne : h.acrossMask ≠ .g) : h.frag.acting = h.team.live ∨ h.team.isCore = true := by
  by_contra hn
  exact hne (if_neg fun hor => hn hor.symm)

theorem exec_getmode {s : State} {h : Here} (y : Bool) (d : BitVec 8) (hs : s.shaped = true) (hh : s.here = some h)
    (hc : h.check { word := wordOf (.getmode y d), writes := [(d.toNat, 1)], guard := false, act := h.frag.acting,
                    grow := growOf h.acrossMask d.toNat 1 } = none) :
    ∃ t h', exec (.getmode y d) s = .next t ∧ Local s t h h' ∧ OnlyRegs y h.team.fpctl h h' ∧ h'.team.cc = h.team.cc ∧
      Wrote y d.toNat 1 h.frag.acting (fun _ => h.frag.mode.toNat) h h' := by
  have hsound : Sound h 1 h.frag.acting h.acrossMask fun _ => h.frag.mode.toNat :=
    Here.sound_of (State.here_shaped hs hh).core (fun _ _ _ _ => rfl) fun ha => absurd ha h.acrossMask_ne_a
  obtain ⟨h', hl, ho, hcc, hw⟩ := State.put_plain_write (y := y)
    (k := fun h' => h'.write d.toNat 1 h.frag.acting h.acrossMask fun _ => h'.frag.mode.toNat)
    hs hh hc rfl List.mem_cons_self (.inl rfl) hsound Here.acrossMask_ne_g
  exact ⟨_, h', issue_here hh _, hl, ho, hcc, hw⟩

/-- Settles O23, by the three cases: the decoder and the literal checks agree on the reserved images, a refused word parks its
fragment with the mode kept, and GETMODE is the shared write of one value for all lanes. -/
theorem setmodeWritesTheModeWholeAndGetmodeReadsIt : Obligations.SetmodeWritesTheModeWholeAndGetmodeReadsIt := by
  intro y s h hs hh reserved
  refine ⟨fun m hm => exec_setmode y hs hh ((modeImageOk_iff m).2 hm), fun w hop hw => ⟨decode_setmode_refuses hop hw, ?_⟩,
    fun d hc => exec_getmode y d hs hh hc⟩
  obtain ⟨h', hl, hf, ht⟩ := State.put_raise_local h.frag.acting { cause := 1, detail := w } hs hh
  refine ⟨_, h', h.faultAtIssue h.frag.acting { cause := 1, detail := w }, issue_here hh _, hl, by rw [hf], by rw [hf]; rfl, ?_, rfl,
    ite_self _, rfl, rfl⟩
  rw [ht]
  exact mem_insertFault.2 (.inl rfl)

end Sys2Proof.Machine

/-!
SUPPORT. TRAP (R248): the course of a fixed-latency instruction whose effect raises a trap of its own, and with it what TRAP does
with an active lane and without one.
-/
namespace Sys2Proof.Machine

/-- Where the checks pass and the effect raises a trap, that trap is raised over the effect, with the instruction's destination. -/
theorem Here.run_raise {h : Here} {y : Bool} {u : Uses} {k : Here → Here × Option Trap} {t : Trap} (hc : h.check u = none)
    (hk : (k h).2 = some t) :
    h.run y u k =
      { (k h).1 with fresh := if h.readsFree u then h.fresh + 4096 else h.fresh }.raise u.act { t with dest := u.destWords } := by
  unfold Here.run; rw [hc]; dsimp only; rw [hk]

/-- What TRAP is checked for: it names no register, and acts on the active lanes. -/
def Here.trapUses (h : Here) (y : Bool) (code : BitVec 24) : Uses := { word := wordOf (.trap y code), act := h.active }

/-- The software trap of a TRAP (R248). -/
def Here.softwareTrap (h : Here) (code : BitVec 24) : Trap :=
  { cause := cSWTRAP, lanes := some h.active, detail := code.zeroExtend 32 }

/-- The fault that TRAP records: SWTRAP at the instruction for the active lanes, with no address and the code (R248). -/
def Here.softwareFault (h : Here) (code : BitVec 24) : PendFault := h.faultAtIssue h.active (h.softwareTrap code)

/-- The record of TRAP's fault: FLT3 names the lowest active lane, FLT4 and FLT5 no address, FLT7 the code (R354). -/
theorem fltWords_softwareFault (h : Here) (code : BitVec 24) (slot e0 : Nat) (lanes : Mask) (more : Bool) :
    let flt := fltWords slot e0 (h.softwareFault code) lanes more
    flt[3]? = some (BitVec.ofNat 32 (lanes.lowest e0)) ∧ flt[4]? = some 0#32 ∧ flt[5]? = some 0#32 ∧
      flt[7]? = some (code.zeroExtend 32) :=
  ⟨rfl, rfl, congrArg some (congrArg (BitVec.ofNat 32) (Nat.zero_div _)), rfl⟩

/-- What TRAP does once its checks have passed: nothing but its trap, where a lane is active (R248). -/
def Here.trapEffect (code : BitVec 24) (h : Here) : Here × Option Trap :=
  (h, if h.active = 0#1024 then none else some (h.softwareTrap code))

theorem exec_trap {s : State} {h : Here} (y : Bool) (code : BitVec 24) (hh : s.here = some h) :
    exec (.trap y code) s = .next (s.put (h.run y (h.trapUses y code) (Here.trapEffect code))) :=
  issue_here hh _

/-- With no active lane TRAP only passes the instruction boundary. -/
theorem exec_trap_inactive {s : State} {h : Here} (y : Bool) (code : BitVec 24) (hh : s.here = some h)
    (hc : h.check (h.trapUses y code) = none) (ha : h.active = 0#1024) :
    exec (.trap y code) s = .next (s.put (h.plain y (h.trapUses y code) id)) := by
  rw [exec_trap y code hh, Here.run_ok hc (if_pos ha), Here.plain_ok hc]; rfl

/-- With an active lane TRAP raises its software trap. -/
theorem exec_trap_active {s : State} {h : Here} (y : Bool) (code : BitVec 24) (hh : s.here = some h)
    (hc : h.check (h.trapUses y code) = none) (ha : h.active ≠ 0#1024) :
    exec (.trap y code) s = .next (s.put (h.raise h.active (h.softwareTrap code))) := by
  rw [exec_trap y code hh, Here.run_raise hc (if_neg ha)]; rfl

/-- Settles O31, by whether a lane is active: with none TRAP is a plain instruction of no effect; with one it is a trap at issue,
whose fault stands among the team's. -/
theorem trapRaisesItsSoftwareTrap : Obligations.TrapRaisesItsSoftwareTrap := by
  intro y code s h hs hh hc
  by_cases ha : h.active = 0#1024
  · obtain ⟨h', hl, ht, hf, -⟩ := State.put_plain_local (y := y) (u := h.trapUses y code) (k := id) hs hh hc rfl rfl rfl rfl rfl
    exact ⟨_, h', exec_trap_inactive y code hh hc ha, hl, by rw [ht]; rfl, by rw [ht]; rfl, by rw [ht]; rfl,
      fun _ => ⟨hf, ht⟩, fun hn => absurd ha hn⟩
  · obtain ⟨h', hl, hf, ht⟩ := State.put_raise_local h.active (h.softwareTrap code) hs hh
    have hmem : h.softwareFault code ∈ h'.team.faults := by
      rw [ht]; exact mem_insertFault.2 (.inl rfl)
    exact ⟨_, h', exec_trap_active y code hh hc ha, hl, by rw [ht], by rw [ht], by rw [ht], fun hn => absurd hn ha,
      fun _ => ⟨by rw [hf], by rw [hf]; rfl, _, hmem, rfl, rfl, rfl, fun slot more =>
        fltWords_softwareFault h code slot h.team.e0 h.active more⟩⟩

end Sys2Proof.Machine
